-- ==== Sys2Proof/Word.lean ====
section
/-!
DEFINITION. The word types of the DSCE: a 32-bit register or command word, a byte, a 24-bit
host address, and the bit pattern of a binary32 value (spec 00_scope.md R7, R12; 20_memory.md R53;
30_encoding.md R83).
-/

namespace Sys2Proof

/-- A byte (20_memory.md R60). -/
abbrev Byte := BitVec 8

/-- A 32-bit register value, packed pixel word or command word (00_scope.md R12, 30_encoding.md R73). -/
abbrev Word := BitVec 32

/-- The bit pattern of an IEEE 754 binary32 value: sign in bit 31, biased exponent in bits 30..23,
fraction in bits 22..0 (00_scope.md R7, 30_encoding.md R83). -/
abbrev F32 := BitVec 32

/-- A byte address on the host port (20_memory.md R53). -/
abbrev Addr := BitVec 24

end Sys2Proof
end

