-- ==== Sys2Proof/Syntax.lean ====
section
/-!
DEFINITION. The commands of the DSCE command set, version 1: one constructor per row of
spec/opcode_table.json (30_encoding.md R75).
-/

namespace Sys2Proof

/-- The encoder MAP applies, `F[0]` of MAP (30_encoding.md R81). -/
inductive Encoder where
  /-- `ENC_LANE`, the byte-lane encoder (code 0). -/
  | lane
  /-- `ENC_LED`, the full-LED encoder (code 1). -/
  | led
  deriving DecidableEq, Repr

/-- The byte order of FINALIZE, `F[0]` of FINALIZE (30_encoding.md R82). -/
inductive ByteOrder where
  /-- `LITTLE` (code 0). -/
  | little
  /-- `BIG` (code 1). -/
  | big
  deriving DecidableEq, Repr

/-- A command. Channel and lane numbers are `0..15` and sample indices `0..16383` in a well-formed
command (`Instr.WellFormed`); a channel or index past the build's size is legal (30_encoding.md R74, R78). -/
inductive Instr where
  /-- UPDATE: one tick (41_engine.md R109). -/
  | update
  /-- TRESET: rewind all channel clocks (41_engine.md R110). -/
  | treset
  /-- MAP: OR channel `c` into the packed buffer through encoder `e` (41_engine.md R111). -/
  | map (c : Nat) (e : Encoder)
  /-- CLEAR: zero the packed buffer (41_engine.md R113). -/
  | clear
  /-- FINALIZE: stamp the marker and order the bytes (41_engine.md R115). -/
  | finalize (d : ByteOrder)
  /-- GEN_UPDATE_POINT: evaluate sample `i` of channel `c` (40_waveform.md R97). -/
  | genUpdatePoint (c i : Nat)
  /-- GEN_UPDATE: evaluate every sample of channel `c` (40_waveform.md R98). -/
  | genUpdate (c : Nat)
  /-- GEN_RESET: zero the samples and exclusion flags of channel `c` (40_waveform.md R99). -/
  | genReset (c : Nat)
  /-- GEN_MASK: toggle exclusion flag `i` of channel `c` (40_waveform.md R100). -/
  | genMask (c i : Nat)
  /-- QUANTIZE: quantize `G.ARG_VALUE` into lane `c` (42_encoder.md R131). -/
  | quantize (c : Nat)
  /-- FORMAT_LED: form an LED word from `G.ARG_RGBB` (42_encoder.md R132). -/
  | formatLed
  deriving DecidableEq, Repr

end Sys2Proof
end

