-- ==== Sys2Proof/WellFormed.lean ====
section
/-!
DEFINITION. Which commands the 32-bit format can spell: the operand ranges of 30_encoding.md R73.
-/

namespace Sys2Proof

/-- A CH field value: 4 bits (30_encoding.md R73). -/
abbrev channelFits (c : Nat) : Bool := decide (c < 16)

/-- An IDX field value: 14 bits (30_encoding.md R73). -/
abbrev indexFits (i : Nat) : Bool := decide (i < 16384)

/-- The command's operands fit the fields that carry them (30_encoding.md R73, R74). -/
def Instr.wellFormed (i : Instr) : Bool :=
  match i with
  | .update => true
  | .treset => true
  | .map c _ => channelFits c
  | .clear => true
  | .finalize _ => true
  | .genUpdatePoint c x => channelFits c && indexFits x
  | .genUpdate c => channelFits c
  | .genReset c => channelFits c
  | .genMask c x => channelFits c && indexFits x
  | .quantize c => channelFits c
  | .formatLed => true

/-- `Instr.wellFormed` as a proposition. -/
abbrev Instr.WellFormed (i : Instr) : Prop := i.wellFormed = true

end Sys2Proof
end

