-- ==== Sys2Proof/Decode.lean ====
section
/-!
DEFINITION. The decoder of a command word, total on all 2^32 words and rejecting by name, and the
encoder, both written from 30_encoding.md R73 to R77, R81 and R82; and the rows of the opcode map
(R75) as match and mask words.
-/

namespace Sys2Proof

/-- Why a word spells no command (30_encoding.md R77). -/
inductive DecodeError where
  /-- The OP field is none of the eleven opcodes. -/
  | reservedOpcode
  /-- The OP field is an opcode, and a bit that the row wants zero is one (30_encoding.md R76). -/
  | mustBeZero
  deriving DecidableEq, Repr

/-- `w[31:24]` (30_encoding.md R73). -/
def opField (w : Word) : Nat := (w.extractLsb' 24 8).toNat

/-- `w[23:20]`. -/
def chField (w : Word) : Nat := (w.extractLsb' 20 4).toNat

/-- `w[19:16]`. -/
def fField (w : Word) : Nat := (w.extractLsb' 16 4).toNat

/-- `w[15:14]`, always zero. -/
def zeroField (w : Word) : Nat := (w.extractLsb' 14 2).toNat

/-- `w[13:0]`. -/
def idxField (w : Word) : Nat := (w.extractLsb' 0 14).toNat

/-- The encoder code of `F` (30_encoding.md R81); `F[3:1]` must be zero (R76). -/
def encoderOf (f : Nat) : Option Encoder :=
  match f with
  | 0 => some .lane
  | 1 => some .led
  | _ => none

/-- The byte-order code of `F` (30_encoding.md R82); `F[3:1]` must be zero (R76). -/
def byteOrderOf (f : Nat) : Option ByteOrder :=
  match f with
  | 0 => some .little
  | 1 => some .big
  | _ => none

/-- Accept `i` when every field the opcode does not use is zero (30_encoding.md R76). -/
def whenZero (unusedZero : Bool) (i : Instr) : Except DecodeError Instr :=
  if unusedZero then .ok i else .error .mustBeZero

/-- Decode of a command word (30_encoding.md R75 to R78). The operands are zero-extended fields
(R74); nothing here looks at CHANNELS or POINTS (R78). -/
def decode (w : Word) : Except DecodeError Instr :=
  let c := chField w
  let f := fField w
  let z := zeroField w
  let i := idxField w
  match opField w with
  | 0x01 => whenZero (c == 0 && f == 0 && z == 0 && i == 0) .update
  | 0x02 => whenZero (c == 0 && f == 0 && z == 0 && i == 0) .treset
  | 0x03 =>
    match encoderOf f with
    | some e => whenZero (z == 0 && i == 0) (.map c e)
    | none => .error .mustBeZero
  | 0x04 => whenZero (c == 0 && f == 0 && z == 0 && i == 0) .clear
  | 0x05 =>
    match byteOrderOf f with
    | some d => whenZero (c == 0 && z == 0 && i == 0) (.finalize d)
    | none => .error .mustBeZero
  | 0x10 => whenZero (f == 0 && z == 0) (.genUpdatePoint c i)
  | 0x11 => whenZero (f == 0 && z == 0 && i == 0) (.genUpdate c)
  | 0x12 => whenZero (f == 0 && z == 0 && i == 0) (.genReset c)
  | 0x13 => whenZero (f == 0 && z == 0) (.genMask c i)
  | 0x20 => whenZero (f == 0 && z == 0 && i == 0) (.quantize c)
  | 0x21 => whenZero (c == 0 && f == 0 && z == 0 && i == 0) .formatLed
  | _ => .error .reservedOpcode

/-- `F[0]` for an encoder (30_encoding.md R81). -/
def encoderCode (e : Encoder) : Nat :=
  match e with
  | .lane => 0
  | .led => 1

/-- `F[0]` for a byte order (30_encoding.md R82). -/
def byteOrderCode (d : ByteOrder) : Nat :=
  match d with
  | .little => 0
  | .big => 1

/-- The word `{op, c, f, 00, i}` of the one command format (30_encoding.md R73). -/
def commandWord (op c f i : Nat) : Word :=
  BitVec.ofNat 32 (op * 2 ^ 24 + c * 2 ^ 20 + f * 2 ^ 16 + i)

/-- The word of a well-formed command (30_encoding.md R73, R75). -/
def encode (i : Instr) : Word :=
  match i with
  | .update => commandWord 0x01 0 0 0
  | .treset => commandWord 0x02 0 0 0
  | .map c e => commandWord 0x03 c (encoderCode e) 0
  | .clear => commandWord 0x04 0 0 0
  | .finalize d => commandWord 0x05 0 (byteOrderCode d) 0
  | .genUpdatePoint c x => commandWord 0x10 c 0 x
  | .genUpdate c => commandWord 0x11 c 0 0
  | .genReset c => commandWord 0x12 c 0 0
  | .genMask c x => commandWord 0x13 c 0 x
  | .quantize c => commandWord 0x20 c 0 0
  | .formatLed => commandWord 0x21 0 0 0

/-- A row of the opcode map (30_encoding.md R75): a word `w` spells the row's command when
`w &&& mask = value`. -/
structure OpRow where
  /-- The `match` column. -/
  value : Word
  /-- The `mask` column. -/
  mask : Word
  deriving DecidableEq, Repr

/-- The row of a command in the opcode map, its two columns copied from 30_encoding.md R75. -/
def opRow (i : Instr) : OpRow :=
  match i with
  | .update => ⟨0x01000000#32, 0xFFFFFFFF#32⟩
  | .treset => ⟨0x02000000#32, 0xFFFFFFFF#32⟩
  | .map _ _ => ⟨0x03000000#32, 0xFF0EFFFF#32⟩
  | .clear => ⟨0x04000000#32, 0xFFFFFFFF#32⟩
  | .finalize _ => ⟨0x05000000#32, 0xFFFEFFFF#32⟩
  | .genUpdatePoint _ _ => ⟨0x10000000#32, 0xFF0FC000#32⟩
  | .genUpdate _ => ⟨0x11000000#32, 0xFF0FFFFF#32⟩
  | .genReset _ => ⟨0x12000000#32, 0xFF0FFFFF#32⟩
  | .genMask _ _ => ⟨0x13000000#32, 0xFF0FC000#32⟩
  | .quantize _ => ⟨0x20000000#32, 0xFF0FFFFF#32⟩
  | .formatLed => ⟨0x21000000#32, 0xFFFFFFFF#32⟩

/-- The word spells the command's row (30_encoding.md R75). -/
def matchesRow (w : Word) (r : OpRow) : Bool := w &&& r.mask == r.value

/-- The eleven rows of the opcode map, in the table's order (30_encoding.md R75). -/
def opRows : List OpRow :=
  [opRow .update, opRow .treset, opRow (.map 0 .lane), opRow .clear, opRow (.finalize .little),
    opRow (.genUpdatePoint 0 0), opRow (.genUpdate 0), opRow (.genReset 0), opRow (.genMask 0 0),
    opRow (.quantize 0), opRow .formatLed]

/-- The command the decoder reads from the `nbits` low bits of `w`, every bit above them zero. A
command is one 32-bit word (30_encoding.md R84), so the numbering of spec/opcode_table.json is the
word's own. -/
def decodeTableWord (nbits w : Nat) : Option Instr :=
  match decode (BitVec.ofNat 32 (w % 2 ^ nbits)) with
  | .ok i => some i
  | .error _ => none

end Sys2Proof
end

