-- ==== Sys2Proof/Machine/Float.lean ====
section
/-!
DEFINITION. The binary32 primitives of 00_scope.md R15 under the arithmetic of R7: round to nearest,
ties to even, subnormals kept, canonical NaN, no exception flags. Every finite binary32 is a whole
number of units of 2^-149, so each primitive converts its operands to integers of units, computes
exactly and rounds once at the end.
-/

namespace Sys2Proof.Machine

/-- The canonical quiet NaN (00_scope.md R7). -/
def qNaN : F32 := 0x7FC00000#32

/-- `+0.0`. -/
def posZero : F32 := 0x00000000#32

/-- `-0.0`. -/
def negZero : F32 := 0x80000000#32

/-- `1.0` (00_scope.md R16). -/
def fOne : F32 := 0x3F800000#32

/-- `-1.0` (00_scope.md R16). -/
def fNegOne : F32 := 0xBF800000#32

/-- `2.0` (00_scope.md R16). -/
def fTwo : F32 := 0x40000000#32

/-- `0.5` (00_scope.md R16). -/
def fHalf : F32 := 0x3F000000#32

/-- `255.0` (00_scope.md R16). -/
def f255 : F32 := 0x437F0000#32

/-- `TWO_PI`, the binary32 nearest 2π (00_scope.md R16). -/
def fTwoPi : F32 := 0x40C90FDB#32

/-- `PI`, the binary32 nearest π (00_scope.md R16). -/
def fPi : F32 := 0x40490FDB#32

/-! ### The parts of a pattern (30_encoding.md R83) -/

/-- Bit 31. -/
def signOf (a : F32) : Bool := a.msb

/-- Bits 30..0 as a number: it orders the magnitudes, infinity above every finite value and every
NaN above infinity. -/
def magBits (a : F32) : Nat := a.toNat % 2 ^ 31

/-- `isNaN(a)` (00_scope.md R15). -/
def isNaN (a : F32) : Bool := decide (0x7F800000 < magBits a)

/-- An infinity of either sign. -/
def isInf (a : F32) : Bool := magBits a == 0x7F800000

/-- Neither an infinity nor a NaN. -/
def isFinite (a : F32) : Bool := decide (magBits a < 0x7F800000)

/-- A zero of either sign. -/
def isZero (a : F32) : Bool := magBits a == 0

/-- The magnitude of a finite value in units of 2^-149, from its bits 30..0: exponent field 0 is
subnormal, any other puts the hidden bit above the fraction. -/
def unitsOfMag (m : Nat) : Nat :=
  if m / 2 ^ 23 = 0 then m % 2 ^ 23 else (2 ^ 23 + m % 2 ^ 23) * 2 ^ (m / 2 ^ 23 - 1)

/-- The magnitude of a finite value in units of 2^-149. -/
def magUnits (a : F32) : Nat := unitsOfMag (magBits a)

/-- A finite value in units of 2^-149. -/
def units (a : F32) : Int := if signOf a then -(magUnits a : Int) else (magUnits a : Int)

/-- The exact value of a finite binary32. -/
def ratValue (a : F32) : ℚ := (units a : ℚ) / 2 ^ 149

/-- The pattern with sign `s` and magnitude bits `m`. -/
def packF32 (s : Bool) (m : Nat) : F32 := BitVec.ofNat 32 ((if s then 2 ^ 31 else 0) + m)

/-! ### Rounding (00_scope.md R7) -/

/-- `n / d` to the nearest integer, ties to even. -/
def roundHalfEven (n d : Nat) : Nat :=
  let q := n / d
  let r := n % d
  if d < 2 * r ∨ (2 * r = d ∧ q % 2 = 1) then q + 1 else q

/-- The magnitude bits of the binary32 nearest to `n / d` units of 2^-149, ties to even; infinity
where the rounded value passes the largest finite one. With 24 significant bits the spacing is
`2^e` units, and the rounded multiple of it, added to `e * 2^23`, is the pattern: a multiple of
`2^24` carries into the exponent field by itself. -/
def roundMag (n d : Nat) : Nat :=
  let e := Nat.log2 (n / d) - 23
  min (e * 2 ^ 23 + roundHalfEven n (d * 2 ^ e)) 0x7F800000

/-- The binary32 with sign `s` nearest to the magnitude `n / d` units of 2^-149. -/
def roundUnits (s : Bool) (n d : Nat) : F32 := packF32 s (roundMag n d)

/-! ### Arithmetic (00_scope.md R15) -/

/-- `fadd(a, b)`. An exact zero sum is `+0.0` unless both operands are negative. -/
def fadd (a b : F32) : F32 :=
  if isNaN a || isNaN b then qNaN
  else if isInf a then
    if isInf b && (signOf a != signOf b) then qNaN else a
  else if isInf b then b
  else
    let z := units a + units b
    if z = 0 then packF32 (signOf a && signOf b) 0
    else roundUnits (decide (z < 0)) z.natAbs 1

/-- The value with the other sign: bit 31 flipped. -/
def fneg (a : F32) : F32 := a ^^^ 0x80000000#32

/-- `fsub(a, b)`: the sum of `a` and the negated `b`. -/
def fsub (a b : F32) : F32 := fadd a (fneg b)

/-- `fmul(a, b)`. -/
def fmul (a b : F32) : F32 :=
  let s := signOf a != signOf b
  if isNaN a || isNaN b then qNaN
  else if isInf a || isInf b then
    if isZero a || isZero b then qNaN else packF32 s 0x7F800000
  else roundUnits s (magUnits a * magUnits b) (2 ^ 149)

/-- `fdiv(a, b)`. -/
def fdiv (a b : F32) : F32 :=
  let s := signOf a != signOf b
  if isNaN a || isNaN b then qNaN
  else if isInf a then
    if isInf b then qNaN else packF32 s 0x7F800000
  else if isInf b then packF32 s 0
  else if isZero b then
    if isZero a then qNaN else packF32 s 0x7F800000
  else roundUnits s (magUnits a * 2 ^ 149) (magUnits b)

/-- `ffmod(a, b)`: the exact remainder of truncated division, with the sign of `a`. -/
def ffmod (a b : F32) : F32 :=
  if isNaN a || isNaN b then qNaN
  else if isInf a || isZero b then qNaN
  else if isInf b then a
  else roundUnits (signOf a) (magUnits a % magUnits b) 1

/-- `ffloor(a)`: the largest integral value not above `a`; zeros and infinities are themselves. -/
def ffloor (a : F32) : F32 :=
  if isNaN a then qNaN
  else if isInf a || isZero a then a
  else
    let z := units a / 2 ^ 149
    roundUnits (decide (z < 0)) (z.natAbs * 2 ^ 149) 1

/-- `i2f(n)`, exact for `n < 2^24`. -/
def i2f (n : Nat) : F32 := roundUnits false (n * 2 ^ 149) 1

/-- `trunc8(s)`: the integer part of `s`, for `0 <= s <= 255`. -/
def trunc8 (s : F32) : Byte := BitVec.ofNat 8 (magUnits s / 2 ^ 149)

/-! ### Ordered comparisons (00_scope.md R15): false on a NaN, `-0.0` equal to `+0.0` -/

/-- A number that orders the patterns that are no NaN as their values. -/
def orderKey (a : F32) : Int := if signOf a then -(magBits a : Int) else (magBits a : Int)

/-- `flt(a, b)`. -/
def flt (a b : F32) : Bool := !isNaN a && !isNaN b && decide (orderKey a < orderKey b)

/-- `fgt(a, b)`. -/
def fgt (a b : F32) : Bool := flt b a

/-- `fge(a, b)`. -/
def fge (a b : F32) : Bool := !isNaN a && !isNaN b && decide (orderKey b ≤ orderKey a)

end Sys2Proof.Machine
end

