-- ==== Sys2Proof/Laws/Float.lean ====
section
/-!
SUPPORT. Laws of the binary32 primitives: the parts of a packed pattern, exact magnitudes round to
themselves, and the comparisons order the exact values.
-/

namespace Sys2Proof.Machine

/-- Rounding an exact quotient is the quotient. -/
theorem roundHalfEven_exact (k d : Nat) (hd : 0 < d) : roundHalfEven (k * d) d = k := by
  have h1 : k * d / d = k := Nat.mul_div_cancel _ hd
  have h2 : k * d % d = 0 := Nat.mul_mod_left _ _
  simp [roundHalfEven, h1, h2]
  omega

/-- A magnitude with at most 24 significant bits, in range, rounds to itself. -/
theorem unitsOfMag_roundMag (m t : Nat) (hm : m < 2 ^ 24) (ht : t ≤ 252) :
    unitsOfMag (roundMag (m * 2 ^ t) 1) = m * 2 ^ t ∧ roundMag (m * 2 ^ t) 1 < 0x7F800000 := by
  set n := m * 2 ^ t with hn
  have hlog : Nat.log2 n - 23 ≤ t ∧ Nat.log2 n - 23 ≤ 252 := by
    rcases Nat.eq_zero_or_pos n with h0 | h0
    · simp [h0]
    · have : n < 2 ^ (24 + t) := by
        rw [hn, pow_add]; exact Nat.mul_lt_mul_of_pos_right hm (by positivity)
      have := (Nat.log2_lt h0.ne').2 this
      omega
  set e := Nat.log2 n - 23 with he
  have hdvd : n = (m * 2 ^ (t - e)) * 2 ^ e := by
    rw [hn, mul_assoc, ← pow_add]; congr 2; omega
  set r := m * 2 ^ (t - e) with hr
  have hround : roundMag n 1 = min (e * 2 ^ 23 + r) 0x7F800000 := by
    unfold roundMag
    simp only [Nat.div_one, ← he, one_mul]
    conv_lhs => rw [hdvd]
    rw [roundHalfEven_exact _ _ (by positivity)]
  have hrlt : r < 2 ^ 24 := by
    rcases Nat.eq_zero_or_pos n with h0 | h0
    · have : r * 2 ^ e = 0 := by rw [← hdvd]; exact h0
      have : r = 0 := by simpa using this
      omega
    · have h1 : n < 2 ^ (Nat.log2 n + 1) := Nat.lt_log2_self
      have h2 : Nat.log2 n + 1 ≤ 24 + e := by omega
      have h3 : r * 2 ^ e < 2 ^ 24 * 2 ^ e := by
        rw [← hdvd, ← pow_add]; exact h1.trans_le (Nat.pow_le_pow_right (by norm_num) h2)
      exact Nat.lt_of_mul_lt_mul_right h3
  have hrge : e ≠ 0 → 2 ^ 23 ≤ r := by
    intro h
    have h0 : n ≠ 0 := by rintro h0; simp [h0] at he; omega
    have h1 : 2 ^ Nat.log2 n ≤ n := Nat.log2_self_le h0
    have h2 : Nat.log2 n = 23 + e := by omega
    have h3 : 2 ^ 23 * 2 ^ e ≤ r * 2 ^ e := by rw [← hdvd, ← pow_add, ← h2]; exact h1
    exact Nat.le_of_mul_le_mul_right h3 (by positivity)
  have hlt : e * 2 ^ 23 + r < 0x7F800000 := by omega
  rw [hround, min_eq_left hlt.le]
  refine ⟨?_, hlt⟩
  rw [hdvd]
  clear_value r e
  clear hround hdvd hlog
  unfold unitsOfMag
  rcases Nat.eq_zero_or_pos e with h0 | h0
  · rw [h0]; simp only [zero_mul, zero_add, pow_zero, mul_one]
    split_ifs with h
    · omega
    · have : r / 2 ^ 23 = 1 := by omega
      rw [this]; omega
  · have h1 := hrge h0.ne'
    have h2 : (e * 2 ^ 23 + r) / 2 ^ 23 = e + 1 := by omega
    have h3 : (e * 2 ^ 23 + r) % 2 ^ 23 = r - 2 ^ 23 := by omega
    rw [h2, h3, if_neg (by omega), Nat.add_sub_cancel, Nat.add_sub_cancel' h1]

/-- The magnitude bits order the magnitudes. -/
theorem unitsOfMag_strictMono : StrictMono unitsOfMag := by
  refine strictMono_nat_of_lt_succ fun m => ?_
  unfold unitsOfMag
  by_cases h : m % 2 ^ 23 + 1 = 2 ^ 23
  · have h1 : (m + 1) / 2 ^ 23 = m / 2 ^ 23 + 1 := by omega
    have h2 : (m + 1) % 2 ^ 23 = 0 := by omega
    rw [h1, h2, if_neg (Nat.succ_ne_zero _), Nat.add_sub_cancel]
    split_ifs with h3
    · rw [h3]; omega
    · obtain ⟨k, hk⟩ := Nat.exists_eq_succ_of_ne_zero h3
      rw [hk, Nat.succ_sub_one, pow_succ]
      have : m % 2 ^ 23 < 2 ^ 23 := Nat.mod_lt _ (by positivity)
      calc (2 ^ 23 + m % 2 ^ 23) * 2 ^ k < (2 ^ 23 * 2) * 2 ^ k :=
            Nat.mul_lt_mul_of_pos_right (by omega) (by positivity)
        _ = (2 ^ 23 + 0) * (2 ^ k * 2) := by ring
  · have h1 : (m + 1) / 2 ^ 23 = m / 2 ^ 23 := by omega
    have h2 : (m + 1) % 2 ^ 23 = m % 2 ^ 23 + 1 := by omega
    rw [h1, h2]
    split_ifs
    · omega
    · exact Nat.mul_lt_mul_of_pos_right (by omega) (by positivity)

theorem packF32_toNat (s : Bool) (m : Nat) (h : m < 2 ^ 31) :
    (packF32 s m).toNat = (if s then 2 ^ 31 else 0) + m := by
  unfold packF32
  rw [BitVec.toNat_ofNat]
  apply Nat.mod_eq_of_lt
  split_ifs <;> omega

theorem magBits_packF32 (s : Bool) (m : Nat) (h : m < 2 ^ 31) : magBits (packF32 s m) = m := by
  unfold magBits
  rw [packF32_toNat s m h]
  split_ifs <;> omega

theorem signOf_packF32 (s : Bool) (m : Nat) (h : m < 2 ^ 31) : signOf (packF32 s m) = s := by
  unfold signOf
  rw [BitVec.msb_eq_decide, packF32_toNat s m h]
  cases s <;> simp <;> omega

/-- The comparison key orders finite patterns as their values. -/
theorem orderKey_le_iff (a b : F32) : orderKey a ≤ orderKey b ↔ units a ≤ units b := by
  unfold orderKey units magUnits
  have h := unitsOfMag_strictMono
  have h0 : unitsOfMag 0 = 0 := rfl
  have e1 : ∀ x y, (x : Nat) ≤ y ↔ unitsOfMag x ≤ unitsOfMag y := fun x y => h.le_iff_le.symm
  have z1 := e1 (magBits a) 0
  have z2 := e1 (magBits b) 0
  have c1 := e1 (magBits a) (magBits b)
  have c2 := e1 (magBits b) (magBits a)
  rw [h0] at z1 z2
  cases signOf a <;> cases signOf b <;> simp only [if_true, if_false,
    Bool.false_eq_true]
  all_goals omega

theorem not_isNaN_of_isFinite {a : F32} (h : isFinite a = true) : isNaN a = false := by
  unfold isFinite at h
  unfold isNaN
  simp only [decide_eq_true_eq, decide_eq_false_iff_not] at *
  omega

/-- `fge` on finite patterns compares the exact values (00_scope.md R15). -/
theorem fge_iff_ratValue {a b : F32} (ha : isFinite a = true) (hb : isFinite b = true) :
    fge a b = true ↔ ratValue b ≤ ratValue a := by
  unfold fge ratValue
  rw [not_isNaN_of_isFinite ha, not_isNaN_of_isFinite hb]
  simp only [Bool.not_false, Bool.true_and, decide_eq_true_eq]
  rw [orderKey_le_iff, div_le_div_iff_of_pos_right (by norm_num)]
  exact_mod_cast Iff.rfl

theorem units_eq_zero_iff (a : F32) : units a = 0 ↔ isZero a = true := by
  have h : unitsOfMag (magBits a) = 0 ↔ magBits a = 0 := by
    have := unitsOfMag_strictMono.injective.eq_iff (a := magBits a) (b := 0)
    rwa [show unitsOfMag 0 = 0 from rfl] at this
  unfold units magUnits isZero
  rw [beq_iff_eq, ← h]
  split_ifs <;> omega

/-- The finite patterns of value zero are the two zeros. -/
theorem ratValue_eq_zero_iff (a : F32) : ratValue a = 0 ↔ isZero a = true := by
  rw [← units_eq_zero_iff]
  unfold ratValue
  rw [div_eq_zero_iff]
  simp

theorem isFinite_of_isZero {a : F32} (h : isZero a = true) : isFinite a = true := by
  unfold isZero at h
  unfold isFinite
  simp only [beq_iff_eq, decide_eq_true_eq] at *
  omega

theorem isFinite_fOne : isFinite fOne = true := by decide
theorem isFinite_fNegOne : isFinite fNegOne = true := by decide
theorem isFinite_posZero : isFinite posZero = true := by decide

theorem ratValue_fOne : ratValue fOne = 1 := by
  have : units fOne = 2 ^ 149 := by decide
  unfold ratValue; rw [this]; norm_num

theorem ratValue_fNegOne : ratValue fNegOne = -1 := by
  have : units fNegOne = -2 ^ 149 := by decide
  unfold ratValue; rw [this]; norm_num

theorem ratValue_posZero : ratValue posZero = 0 := (ratValue_eq_zero_iff _).2 (by decide)

end Sys2Proof.Machine
end

