-- ==== Sys2Proof/Laws/TrigWitness.lean ====
section
/-!
SUPPORT. A sine and an arcsine that have the properties of 00_scope.md R9, so that the types of the
two units of Config.lean have an element. Nothing of the model computes with these functions: the
units themselves have no body. The sine comes from the Taylor sum of the exponential with its error
bound, taken to as many terms as it needs; the arcsine from the monotonicity of the sine.
-/

namespace Sys2Proof.Machine
open Finset

/-- The `m`-th term of the Taylor series of the sine. -/
def sinTerm (q : ℚ) (m : ℕ) : ℚ :=
  if m % 4 = 1 then q ^ m / m.factorial else if m % 4 = 3 then -(q ^ m / m.factorial) else 0

/-- The first `n` terms of the Taylor series of the sine. -/
def sinTaylor (n : ℕ) (q : ℚ) : ℚ := ∑ m ∈ range n, sinTerm q m

/-- A bound on the distance of `sinTaylor n q` from the sine, once `n` is at least twice `|q|`. -/
def sinErr (n : ℕ) (q : ℚ) : ℚ := |q| ^ n / n.factorial * 2

theorem im_I_pow (m : ℕ) : (Complex.I ^ m).im = if m % 4 = 1 then 1 else if m % 4 = 3 then -1 else 0 := by
  rw [Complex.I_pow_eq_pow_mod]
  have h : m % 4 < 4 := Nat.mod_lt _ (by norm_num)
  interval_cases m % 4 <;> simp [pow_succ]

theorem sinTerm_eq_im (q : ℚ) (m : ℕ) :
    ((sinTerm q m : ℚ) : ℝ) = (((q : ℂ) * Complex.I) ^ m / (m.factorial : ℂ)).im := by
  have h : (((q : ℂ) * Complex.I) ^ m / (m.factorial : ℂ)) =
      (((q : ℝ) ^ m / m.factorial : ℝ) : ℂ) * Complex.I ^ m := by
    push_cast; rw [mul_pow]; ring
  rw [h, Complex.im_ofReal_mul, im_I_pow, sinTerm]
  split_ifs <;> push_cast <;> ring

theorem sinTaylor_eq_im (n : ℕ) (q : ℚ) :
    ((sinTaylor n q : ℚ) : ℝ) = (∑ m ∈ range n, ((q : ℂ) * Complex.I) ^ m / (m.factorial : ℂ)).im := by
  rw [Complex.im_sum, sinTaylor]
  push_cast
  exact sum_congr rfl fun m _ => sinTerm_eq_im q m

/-- The Taylor sum is within its error bound of the sine. -/
theorem sinTaylor_error (n : ℕ) (q : ℚ) (h : |q| / (n + 1) ≤ 1 / 2) :
    |Real.sin q - (sinTaylor n q : ℚ)| ≤ ((sinErr n q : ℚ) : ℝ) := by
  have hn : ‖(q : ℂ) * Complex.I‖ = |(q : ℝ)| := by
    rw [norm_mul, Complex.norm_I, mul_one, show (q : ℂ) = ((q : ℝ) : ℂ) by norm_cast,
      Complex.norm_real, Real.norm_eq_abs]
  have hb := Complex.exp_bound' (x := (q : ℂ) * Complex.I) (n := n) (by
    rw [hn]; push_cast; have := (Rat.cast_le (K := ℝ)).2 h; push_cast at this; exact this)
  have hs : Real.sin q = (Complex.exp ((q : ℂ) * Complex.I)).im := by
    have := Complex.exp_ofReal_mul_I_im (q : ℝ)
    rw [← this]; norm_cast
  rw [hs, sinTaylor_eq_im, ← Complex.sub_im, sinErr]
  refine (Complex.abs_im_le_norm _).trans (hb.trans (le_of_eq ?_))
  rw [hn]; push_cast; ring

/-- The error bound becomes as small as wanted. -/
theorem sinErr_small (q : ℚ) {ε : ℚ} (hε : 0 < ε) :
    ∃ n0 : ℕ, ∀ n ≥ n0, |q| / (n + 1) ≤ 1 / 2 ∧ sinErr n q < ε := by
  have ht := (FloorSemiring.tendsto_pow_div_factorial_atTop (K := ℝ) (|q| : ℚ)).mul_const 2
  rw [zero_mul] at ht
  have h1 := ht.eventually (gt_mem_nhds (show (0 : ℝ) < ((ε : ℚ) : ℝ) by exact_mod_cast hε))
  obtain ⟨n1, hn1⟩ := Filter.eventually_atTop.1 h1
  obtain ⟨n2, hn2⟩ := exists_nat_ge (2 * |q|)
  refine ⟨max n1 n2, fun n hn => ⟨?_, ?_⟩⟩
  · rw [div_le_iff₀ (by positivity)]
    have : (n2 : ℚ) ≤ n := by exact_mod_cast (le_of_max_le_right hn)
    linarith
  · have := hn1 n (le_of_max_le_left hn)
    rw [sinErr]; exact_mod_cast this

/-- A rational below the sine is below the Taylor enclosure from some number of terms on. -/
theorem sin_lower (q v : ℚ) (h : ((v : ℚ) : ℝ) < Real.sin q) :
    ∃ n0 : ℕ, ∀ n ≥ n0, |q| / (n + 1) ≤ 1 / 2 ∧ v < sinTaylor n q - sinErr n q := by
  obtain ⟨ε, he0, he⟩ := exists_rat_btwn (show (0 : ℝ) < (Real.sin q - v) / 2 by linarith)
  obtain ⟨n0, hn0⟩ := sinErr_small q (ε := ε) (by exact_mod_cast he0)
  refine ⟨n0, fun n hn => ⟨(hn0 n hn).1, ?_⟩⟩
  have h1 := abs_le.1 (sinTaylor_error n q (hn0 n hn).1)
  have h2 : ((sinErr n q : ℚ) : ℝ) < ε := by exact_mod_cast (hn0 n hn).2
  have : ((v : ℚ) : ℝ) < sinTaylor n q - sinErr n q := by linarith
  exact_mod_cast this

/-- A rational above the sine is above the Taylor enclosure from some number of terms on. -/
theorem sin_upper (q v : ℚ) (h : Real.sin q < ((v : ℚ) : ℝ)) :
    ∃ n0 : ℕ, ∀ n ≥ n0, |q| / (n + 1) ≤ 1 / 2 ∧ sinTaylor n q + sinErr n q < v := by
  obtain ⟨ε, he0, he⟩ := exists_rat_btwn (show (0 : ℝ) < (v - Real.sin q) / 2 by linarith)
  obtain ⟨n0, hn0⟩ := sinErr_small q (ε := ε) (by exact_mod_cast he0)
  refine ⟨n0, fun n hn => ⟨(hn0 n hn).1, ?_⟩⟩
  have h1 := abs_le.1 (sinTaylor_error n q (hn0 n hn).1)
  have h2 : ((sinErr n q : ℚ) : ℝ) < ε := by exact_mod_cast (hn0 n hn).2
  have : (sinTaylor n q + sinErr n q : ℝ) < v := by linarith
  exact_mod_cast this

/-- `k / 2^20` as a binary32, exact for `|k| <= 2^21`. -/
def dyadic20 (k : ℤ) : F32 := roundUnits (decide (k < 0)) (k.natAbs * 2 ^ 129) 1

/-- `k * 2^129` units round to themselves. -/
theorem dyadic20_mag (k : ℤ) (hk : k.natAbs ≤ 2 ^ 21) :
    unitsOfMag (roundMag (k.natAbs * 2 ^ 129) 1) = k.natAbs * 2 ^ 129 ∧
      roundMag (k.natAbs * 2 ^ 129) 1 < 0x7F800000 :=
  unitsOfMag_roundMag k.natAbs 129 (by omega) (by norm_num)

theorem isFinite_dyadic20 (k : ℤ) (hk : k.natAbs ≤ 2 ^ 21) : isFinite (dyadic20 k) = true := by
  have h := (dyadic20_mag k hk).2
  unfold isFinite dyadic20 roundUnits
  rw [magBits_packF32 _ _ (by omega)]
  exact decide_eq_true h

theorem units_dyadic20 (k : ℤ) (hk : k.natAbs ≤ 2 ^ 21) : units (dyadic20 k) = k * 2 ^ 129 := by
  obtain ⟨h1, h2⟩ := dyadic20_mag k hk
  unfold units magUnits dyadic20 roundUnits
  rw [magBits_packF32 _ _ (by omega), signOf_packF32 _ _ (by omega), h1]
  by_cases h : k < 0
  · rw [if_pos (decide_eq_true h)]; push_cast; rw [abs_of_neg h]; ring
  · rw [if_neg (by simpa using h)]; push_cast; rw [abs_of_nonneg (by omega)]

theorem ratValue_dyadic20 (k : ℤ) (hk : k.natAbs ≤ 2 ^ 21) : ratValue (dyadic20 k) = k / 2 ^ 20 := by
  unfold ratValue
  rw [units_dyadic20 k hk]
  push_cast
  rw [div_eq_div_iff (by norm_num) (by norm_num)]
  ring

/-! ### The sine -/

/-- `k / 2^20` is, by the Taylor sum of `n` terms and its error bound, within 2^-18 of the sine of
`q` and on the sine's side of zero. -/
abbrev sinCheck (q : ℚ) (p : ℤ × ℕ) : Prop :=
  |q| / (p.2 + 1) ≤ 1 / 2 ∧ p.1.natAbs ≤ 2 ^ 20 ∧
    (p.1 : ℚ) / 2 ^ 20 - 1 / 2 ^ 18 < sinTaylor p.2 q - sinErr p.2 q ∧
    sinTaylor p.2 q + sinErr p.2 q < (p.1 : ℚ) / 2 ^ 20 + 1 / 2 ^ 18 ∧
    ((0 ≤ p.1 ∧ 0 < sinTaylor p.2 q - sinErr p.2 q) ∨ (p.1 < 0 ∧ sinTaylor p.2 q + sinErr p.2 q < 0))

/-- Some multiple of 2^-20 passes `sinCheck`: the sine of a nonzero rational is not zero. -/
theorem sinCheck_exists (q : ℚ) (hq : q ≠ 0) : ∃ p, sinCheck q p := by
  have hne : Real.sin q ≠ 0 := by
    rw [Real.sin_ne_zero_iff]
    intro n hn
    rcases eq_or_ne n 0 with h0 | h0
    · rw [h0] at hn; simp at hn; exact hq (by exact_mod_cast hn.symm)
    · exact (irrational_pi.intCast_mul h0).ne_rat q hn
  have hs1 := Real.sin_le_one q
  have hs2 := Real.neg_one_le_sin q
  set k : ℤ := ⌊Real.sin q * 2 ^ 20⌋ with hk
  have hk1 : (k : ℝ) ≤ Real.sin q * 2 ^ 20 := Int.floor_le _
  have hk2 : Real.sin q * 2 ^ 20 < k + 1 := Int.lt_floor_add_one _
  have hk3 : k ≤ 2 ^ 20 := by
    have : (k : ℝ) ≤ ((2 ^ 20 : ℤ) : ℝ) := by push_cast; linarith
    exact_mod_cast this
  have hk4 : -2 ^ 20 ≤ k := by
    apply Int.le_floor.2; push_cast; linarith
  obtain ⟨n1, h1⟩ := sin_lower q ((k : ℚ) / 2 ^ 20 - 1 / 2 ^ 18) (by
    push_cast; linarith)
  obtain ⟨n2, h2⟩ := sin_upper q ((k : ℚ) / 2 ^ 20 + 1 / 2 ^ 18) (by
    push_cast; linarith)
  have hsign : ∃ n3 : ℕ, ∀ n ≥ n3, (0 ≤ k ∧ 0 < sinTaylor n q - sinErr n q) ∨
      (k < 0 ∧ sinTaylor n q + sinErr n q < 0) := by
    rcases lt_or_gt_of_ne hne with h | h
    · obtain ⟨n3, h3⟩ := sin_upper q 0 (by simpa using h)
      refine ⟨n3, fun n hn => .inr ⟨?_, (h3 n hn).2⟩⟩
      have : (k : ℝ) < 0 := by linarith [mul_neg_of_neg_of_pos h (show (0:ℝ) < 2 ^ 20 by norm_num)]
      exact_mod_cast this
    · obtain ⟨n3, h3⟩ := sin_lower q 0 (by simpa using h)
      exact ⟨n3, fun n hn => .inl ⟨Int.floor_nonneg.2 (by positivity), (h3 n hn).2⟩⟩
  obtain ⟨n3, h3⟩ := hsign
  let n := max n1 (max n2 n3)
  have hn1 : n1 ≤ n := le_max_left _ _
  have hn2 : n2 ≤ n := (le_max_left _ _).trans (le_max_right _ _)
  have hn3 : n3 ≤ n := (le_max_right _ _).trans (le_max_right _ _)
  exact ⟨(k, n), (h1 n hn1).1, by show k.natAbs ≤ 2 ^ 20; omega, (h1 n hn1).2, (h2 n hn2).2, h3 n hn3⟩

/-- A sine that has the properties of R9: the argument itself at a zero, else a multiple of 2^-20
that passes `sinCheck`. -/
def sinWitness (x : F32) : F32 :=
  if h : ratValue x = 0 then (if isFinite x then x else qNaN)
  else if isFinite x then dyadic20 (Encodable.choose (sinCheck_exists (ratValue x) h)).1
  else qNaN

/-- S4 of R9. -/
theorem sinWitness_zero (x : F32) (h : isZero x = true) : sinWitness x = x := by
  unfold sinWitness
  rw [dif_pos ((ratValue_eq_zero_iff x).2 h), if_pos (isFinite_of_isZero h)]

/-- S5 of R9. -/
theorem sinWitness_nonFinite (x : F32) (h : isFinite x = false) : sinWitness x = qNaN := by
  unfold sinWitness
  rw [h]
  split_ifs <;> simp_all

theorem sinWitness_finite (x : F32) (hf : isFinite x = true) (h : isZero x = false) :
    ∃ p, sinCheck (ratValue x) p ∧ sinWitness x = dyadic20 p.1 := by
  have h0 : ¬ ratValue x = 0 := by rw [ratValue_eq_zero_iff, h]; simp
  refine ⟨_, Encodable.choose_spec (sinCheck_exists (ratValue x) h0), ?_⟩
  unfold sinWitness
  rw [dif_neg h0, if_pos hf]

/-- S1 of R9. -/
theorem sinWitness_accurate (x : F32) (hf : isFinite x = true) :
    |((ratValue (sinWitness x) : ℚ) : ℝ) - Real.sin (ratValue x)| ≤ 1 / 100000 := by
  cases h : isZero x
  · obtain ⟨⟨k, n⟩, ⟨h1, h2, h3, h4, -⟩, he⟩ := sinWitness_finite x hf h
    simp only at h1 h2 h3 h4 he
    rw [he, ratValue_dyadic20 k (by omega)]
    have hb := abs_le.1 (sinTaylor_error n _ h1)
    have h3' : ((k : ℝ)) / 2 ^ 20 - 1 / 2 ^ 18 < sinTaylor n (ratValue x) - sinErr n (ratValue x) := by
      have := (Rat.cast_lt (K := ℝ)).2 h3
      push_cast at this; exact this
    have h4' : (sinTaylor n (ratValue x) + sinErr n (ratValue x) : ℝ) < (k : ℝ) / 2 ^ 20 + 1 / 2 ^ 18 := by
      have := (Rat.cast_lt (K := ℝ)).2 h4
      push_cast at this; exact this
    push_cast
    rw [abs_le]
    constructor <;> norm_num at * <;> linarith
  · rw [sinWitness_zero x h, (ratValue_eq_zero_iff x).2 h]
    norm_num

theorem isFinite_sinWitness (x : F32) (hf : isFinite x = true) : isFinite (sinWitness x) = true := by
  cases h : isZero x
  · obtain ⟨⟨k, n⟩, ⟨-, h2, -⟩, he⟩ := sinWitness_finite x hf h
    rw [he]
    exact isFinite_dyadic20 k (by simp only at h2; omega)
  · rw [sinWitness_zero x h]; exact hf

/-- S2 of R9. -/
theorem sinWitness_bounded (x : F32) (hf : isFinite x = true) :
    fge (sinWitness x) fNegOne = true ∧ fge fOne (sinWitness x) = true := by
  rw [fge_iff_ratValue (isFinite_sinWitness x hf) isFinite_fNegOne,
    fge_iff_ratValue isFinite_fOne (isFinite_sinWitness x hf), ratValue_fOne, ratValue_fNegOne]
  cases h : isZero x
  · obtain ⟨⟨k, n⟩, ⟨-, h2, -⟩, he⟩ := sinWitness_finite x hf h
    simp only at h2 he
    rw [he, ratValue_dyadic20 k (by omega), le_div_iff₀ (by norm_num), div_le_iff₀ (by norm_num)]
    constructor
    · have : -2 ^ 20 ≤ k := by omega
      exact_mod_cast (by omega : (-1 : ℤ) * 2 ^ 20 ≤ k)
    · exact_mod_cast (by omega : k ≤ 1 * 2 ^ 20)
  · rw [sinWitness_zero x h, (ratValue_eq_zero_iff x).2 h]
    norm_num

/-- S3 of R9. -/
theorem sinWitness_sign (x : F32) (hf : isFinite x = true) :
    fge (sinWitness x) posZero = true ↔ 0 ≤ Real.sin (ratValue x) := by
  rw [fge_iff_ratValue (isFinite_sinWitness x hf) isFinite_posZero, ratValue_posZero]
  cases h : isZero x
  · obtain ⟨⟨k, n⟩, ⟨h1, h2, -, -, h5⟩, he⟩ := sinWitness_finite x hf h
    simp only at h1 h2 h5 he
    rw [he, ratValue_dyadic20 k (by omega), le_div_iff₀ (by norm_num), zero_mul]
    have hb := abs_le.1 (sinTaylor_error n _ h1)
    rcases h5 with ⟨hk, h5⟩ | ⟨hk, h5⟩
    · have h5' : (0 : ℝ) < sinTaylor n (ratValue x) - sinErr n (ratValue x) := by exact_mod_cast h5
      exact ⟨fun _ => by linarith, fun _ => by exact_mod_cast hk⟩
    · have h5' : (sinTaylor n (ratValue x) + sinErr n (ratValue x) : ℝ) < 0 := by exact_mod_cast h5
      refine ⟨fun hc => ?_, fun hc => ?_⟩
      · have : (0 : ℤ) ≤ k := by exact_mod_cast hc
        omega
      · linarith
  · rw [sinWitness_zero x h, (ratValue_eq_zero_iff x).2 h]
    norm_num

/-! ### The arcsine -/

/-- `a` is below the arcsine of `v` by the Taylor sum of `n` terms, or below -π/2. -/
abbrev asinAbove (v a : ℚ) (n : ℕ) : Prop :=
  a < -15707964 / 10000000 ∨
    (|a| / (n + 1) ≤ 1 / 2 ∧ a ≤ 15707963 / 10000000 ∧ sinTaylor n a + sinErr n a < v)

/-- `a` is above the arcsine of `v` by the Taylor sum of `n` terms, or above π/2. -/
abbrev asinBelow (v a : ℚ) (n : ℕ) : Prop :=
  15707964 / 10000000 < a ∨
    (|a| / (n + 1) ≤ 1 / 2 ∧ -15707963 / 10000000 ≤ a ∧ v < sinTaylor n a - sinErr n a)

/-- `k / 2^20` is within 2^-17 of the arcsine of `v`. -/
abbrev asinCheck (v : ℚ) (p : ℤ × ℕ) : Prop :=
  p.1.natAbs ≤ 2 ^ 21 ∧ asinAbove v ((p.1 - 8 : ℤ) / 2 ^ 20) p.2 ∧ asinBelow v ((p.1 + 8 : ℤ) / 2 ^ 20) p.2

/-- `asinAbove` is sound. -/
theorem le_arcsin_of_asinAbove {v a : ℚ} {n : ℕ} (h : asinAbove v a n) : (a : ℝ) ≤ Real.arcsin v := by
  have hp := Real.pi_lt_d20
  have hp' := Real.pi_gt_d20
  have hl := Real.neg_pi_div_two_le_arcsin (v : ℝ)
  rcases h with h | ⟨h1, h2, h3⟩
  · have : (a : ℝ) < -15707964 / 10000000 := by
      have := (Rat.cast_lt (K := ℝ)).2 h
      push_cast at this; exact this
    linarith
  · rcases lt_or_ge (a : ℝ) (-(Real.pi / 2)) with ha | ha
    · linarith
    · have hb := abs_le.1 (sinTaylor_error n a h1)
      have h3' : (sinTaylor n a + sinErr n a : ℝ) < v := by exact_mod_cast h3
      have h2' : (a : ℝ) ≤ 15707963 / 10000000 := by
        have := (Rat.cast_le (K := ℝ)).2 h2
        push_cast at this; exact this
      rw [← Real.arcsin_sin ha (by linarith)]
      exact Real.monotone_arcsin (by linarith)

/-- `asinBelow` is sound. -/
theorem arcsin_le_of_asinBelow {v a : ℚ} {n : ℕ} (h : asinBelow v a n) : Real.arcsin v ≤ a := by
  have hp := Real.pi_lt_d20
  have hp' := Real.pi_gt_d20
  have hl := Real.arcsin_le_pi_div_two (v : ℝ)
  rcases h with h | ⟨h1, h2, h3⟩
  · have : (15707964 / 10000000 : ℝ) < a := by
      have := (Rat.cast_lt (K := ℝ)).2 h
      push_cast at this; exact this
    linarith
  · rcases lt_or_ge (Real.pi / 2) (a : ℝ) with ha | ha
    · linarith
    · have hb := abs_le.1 (sinTaylor_error n a h1)
      have h3' : (v : ℝ) < sinTaylor n a - sinErr n a := by exact_mod_cast h3
      have h2' : (-15707963 / 10000000 : ℝ) ≤ a := by
        have := (Rat.cast_le (K := ℝ)).2 h2
        push_cast at this; exact this
      rw [← Real.arcsin_sin (by linarith) ha]
      exact Real.monotone_arcsin (by linarith)

theorem asinAbove_exists {v : ℚ} (hv : -1 ≤ v ∧ v ≤ 1) (k : ℤ) (hk : (k : ℝ) / 2 ^ 20 < Real.arcsin v) :
    ∃ n0 : ℕ, ∀ n ≥ n0, asinAbove v ((k : ℤ) / 2 ^ 20) n := by
  have hp := Real.pi_lt_d20
  have hp' := Real.pi_gt_d20
  have hl := Real.arcsin_le_pi_div_two (v : ℝ)
  rcases lt_or_ge k (-1647099) with h | h
  · refine ⟨0, fun n _ => .inl ?_⟩
    have : (k : ℚ) ≤ -1647100 := by exact_mod_cast (by omega : k ≤ -1647100)
    linarith
  · have hk' : (-1647099 : ℝ) ≤ k := by exact_mod_cast h
    have h1 : -(Real.pi / 2) ≤ (k : ℝ) / 2 ^ 20 := by
      rw [le_div_iff₀ (by norm_num)]; nlinarith
    have hv1 : (-1 : ℝ) ≤ v := by exact_mod_cast hv.1
    have hv2 : (v : ℝ) ≤ 1 := by exact_mod_cast hv.2
    have h2 : Real.sin ((k : ℝ) / 2 ^ 20) < v := by
      rw [← Real.sin_arcsin hv1 hv2]
      exact Real.strictMonoOn_sin ⟨h1, by linarith⟩
        ⟨Real.neg_pi_div_two_le_arcsin _, Real.arcsin_le_pi_div_two _⟩ hk
    obtain ⟨n0, h0⟩ := sin_upper ((k : ℚ) / 2 ^ 20) v (by push_cast; exact h2)
    refine ⟨n0, fun n hn => .inr ⟨(h0 n hn).1, ?_, (h0 n hn).2⟩⟩
    have h4 : (k : ℝ) < 1647100 := by
      have : (k : ℝ) / 2 ^ 20 < 1647100 / 2 ^ 20 := by
        refine lt_of_lt_of_le (hk.trans_le hl) ?_
        rw [le_div_iff₀ (by norm_num)]; nlinarith
      rwa [div_lt_div_iff_of_pos_right (by norm_num)] at this
    have h5 : k ≤ 1647099 := by
      have : k < 1647100 := by exact_mod_cast h4
      omega
    have h6 : (k : ℚ) ≤ 1647099 := by exact_mod_cast h5
    rw [div_le_div_iff₀ (by norm_num) (by norm_num)]
    linarith

theorem asinBelow_exists {v : ℚ} (hv : -1 ≤ v ∧ v ≤ 1) (k : ℤ) (hk : Real.arcsin v < (k : ℝ) / 2 ^ 20) :
    ∃ n0 : ℕ, ∀ n ≥ n0, asinBelow v ((k : ℤ) / 2 ^ 20) n := by
  have hp := Real.pi_lt_d20
  have hp' := Real.pi_gt_d20
  have hl := Real.neg_pi_div_two_le_arcsin (v : ℝ)
  rcases lt_or_ge 1647099 k with h | h
  · refine ⟨0, fun n _ => .inl ?_⟩
    have : (1647100 : ℚ) ≤ k := by exact_mod_cast (by omega : (1647100 : ℤ) ≤ k)
    linarith
  · have hk' : (k : ℝ) ≤ 1647099 := by exact_mod_cast h
    have h1 : (k : ℝ) / 2 ^ 20 ≤ Real.pi / 2 := by
      rw [div_le_iff₀ (by norm_num)]; nlinarith
    have hv1 : (-1 : ℝ) ≤ v := by exact_mod_cast hv.1
    have hv2 : (v : ℝ) ≤ 1 := by exact_mod_cast hv.2
    have h2 : (v : ℝ) < Real.sin ((k : ℝ) / 2 ^ 20) := by
      rw [← Real.sin_arcsin hv1 hv2]
      exact Real.strictMonoOn_sin
        ⟨Real.neg_pi_div_two_le_arcsin _, Real.arcsin_le_pi_div_two _⟩ ⟨by linarith, h1⟩ hk
    obtain ⟨n0, h0⟩ := sin_lower ((k : ℚ) / 2 ^ 20) v (by push_cast; exact h2)
    refine ⟨n0, fun n hn => .inr ⟨(h0 n hn).1, ?_, (h0 n hn).2⟩⟩
    have h4 : (-1647100 : ℝ) < k := by
      have : (-1647100 : ℝ) / 2 ^ 20 < (k : ℝ) / 2 ^ 20 := by
        refine lt_of_le_of_lt ?_ (hl.trans_lt hk)
        rw [div_le_iff₀ (by norm_num)]; nlinarith
      rwa [div_lt_div_iff_of_pos_right (by norm_num)] at this
    have h5 : -1647099 ≤ k := by
      have : -1647100 < k := by exact_mod_cast h4
      omega
    have h6 : (-1647099 : ℚ) ≤ k := by exact_mod_cast h5
    rw [div_le_div_iff₀ (by norm_num) (by norm_num)]
    linarith

/-- Some multiple of 2^-20 passes `asinCheck`. -/
theorem asinCheck_exists {v : ℚ} (hv : -1 ≤ v ∧ v ≤ 1) : ∃ p, asinCheck v p := by
  have hp := Real.pi_lt_d20
  have hl := Real.arcsin_le_pi_div_two (v : ℝ)
  have hl' := Real.neg_pi_div_two_le_arcsin (v : ℝ)
  set k : ℤ := ⌊Real.arcsin v * 2 ^ 20⌋ with hk
  have hk1 : (k : ℝ) ≤ Real.arcsin v * 2 ^ 20 := Int.floor_le _
  have hk2 : Real.arcsin v * 2 ^ 20 < k + 1 := Int.lt_floor_add_one _
  have hk3 : k ≤ 2 ^ 21 := by
    have : (k : ℝ) ≤ ((2 ^ 21 : ℤ) : ℝ) := by push_cast; linarith
    exact_mod_cast this
  have hk4 : -2 ^ 21 ≤ k := by
    apply Int.le_floor.2; push_cast; linarith
  obtain ⟨n1, h1⟩ := asinAbove_exists hv (k - 8) (by
    rw [div_lt_iff₀ (by norm_num)]; push_cast; linarith)
  obtain ⟨n2, h2⟩ := asinBelow_exists hv (k + 8) (by
    rw [lt_div_iff₀ (by norm_num)]; push_cast; linarith)
  exact ⟨(k, max n1 n2), by show k.natAbs ≤ 2 ^ 21; omega, h1 _ (le_max_left _ _), h2 _ (le_max_right _ _)⟩

/-- An arcsine that has the properties of R9: the values A2 names at ±0 and ±1, else a multiple of
2^-20 that passes `asinCheck`. -/
def asinWitness (y : F32) : F32 :=
  if isZero y then y
  else if y = fOne then 0x3FC90FDB#32
  else if y = fNegOne then 0xBFC90FDB#32
  else if h : isFinite y = true ∧ -1 ≤ ratValue y ∧ ratValue y ≤ 1 then
    dyadic20 (Encodable.choose (asinCheck_exists h.2)).1
  else qNaN

theorem ratValue_asinOne : ratValue 0x3FC90FDB#32 = 13176795 / 2 ^ 23 := by
  have : units 0x3FC90FDB#32 = 13176795 * 2 ^ 126 := by decide
  unfold ratValue; rw [this]; norm_num

theorem ratValue_asinNegOne : ratValue 0xBFC90FDB#32 = -13176795 / 2 ^ 23 := by
  have : units 0xBFC90FDB#32 = -13176795 * 2 ^ 126 := by decide
  unfold ratValue; rw [this]; norm_num

/-- A1 of R9. -/
theorem asinWitness_accurate (y : F32) (h1 : fge y fNegOne = true) (h2 : fge fOne y = true) :
    |((ratValue (asinWitness y) : ℚ) : ℝ) - Real.arcsin (ratValue y)| ≤ 1 / 100000 := by
  have hp := Real.pi_lt_d20
  have hp' := Real.pi_gt_d20
  have hf : isFinite y = true := by
    unfold fge orderKey at h1 h2
    unfold isFinite
    have e1 : magBits fOne = 0x3F800000 := by decide
    have e2 : magBits fNegOne = 0x3F800000 := by decide
    have e3 : signOf fOne = false := by decide
    have e4 : signOf fNegOne = true := by decide
    rw [e1, e3] at h2
    rw [e2, e4] at h1
    simp only [Bool.and_eq_true, decide_eq_true_eq] at *
    cases hs : signOf y <;> simp [hs] at h1 h2 <;> omega
  have hb1 := (fge_iff_ratValue hf isFinite_fNegOne).1 h1
  have hb2 := (fge_iff_ratValue isFinite_fOne hf).1 h2
  rw [ratValue_fNegOne] at hb1
  rw [ratValue_fOne] at hb2
  unfold asinWitness
  split_ifs with c1 c2 c3
  · rw [(ratValue_eq_zero_iff y).2 c1]; norm_num
  · rw [c2, ratValue_fOne, ratValue_asinOne]
    push_cast
    rw [Real.arcsin_one, abs_le]
    constructor <;> norm_num at * <;> linarith
  · rw [c3, ratValue_fNegOne, ratValue_asinNegOne]
    push_cast
    rw [Real.arcsin_neg, Real.arcsin_one, abs_le]
    constructor <;> norm_num at * <;> linarith
  · have hc : asinCheck (ratValue y)
        (Encodable.choose (asinCheck_exists (v := ratValue y) ⟨hb1, hb2⟩)) := Encodable.choose_spec _
    obtain ⟨h3, h4, h5⟩ := hc
    have h6 := le_arcsin_of_asinAbove h4
    have h7 := arcsin_le_of_asinBelow h5
    rw [ratValue_dyadic20 _ h3, abs_le]
    push_cast at h6 h7 ⊢
    constructor <;> norm_num at * <;> linarith
  · rename_i c4
    exact absurd (And.intro hf ⟨hb1, hb2⟩) c4

/-- A2 of R9. -/
theorem asinWitness_exact : asinWitness posZero = posZero ∧ asinWitness negZero = negZero ∧
    asinWitness fOne = 0x3FC90FDB#32 ∧ asinWitness fNegOne = 0xBFC90FDB#32 := by
  refine ⟨?_, ?_, ?_, ?_⟩
  · unfold asinWitness; rw [if_pos (by decide)]
  · unfold asinWitness; rw [if_pos (by decide)]
  · unfold asinWitness; rw [if_neg (by decide), if_pos rfl]
  · unfold asinWitness; rw [if_neg (by decide), if_neg (by decide), if_pos rfl]

/-- A3 of R9: `|y| > 1` is `y > 1` or `y < -1`. -/
theorem asinWitness_outside (y : F32) (h : isNaN y = true ∨ fgt y fOne = true ∨ flt y fNegOne = true) :
    asinWitness y = qNaN := by
  have hz : isZero y = false := by
    by_contra hz
    have hz : magBits y = 0 := by simpa [isZero] using hz
    have e1 : magBits fOne = 0x3F800000 := by decide
    have e2 : magBits fNegOne = 0x3F800000 := by decide
    have e3 : signOf fOne = false := by decide
    have e4 : signOf fNegOne = true := by decide
    simp [isNaN, fgt, flt, e1, e2, e3, e4, orderKey, hz] at h
  have h1 : y ≠ fOne := by rintro rfl; revert h; decide
  have h2 : y ≠ fNegOne := by rintro rfl; revert h; decide
  unfold asinWitness
  rw [if_neg (by simp [hz]), if_neg h1, if_neg h2, dif_neg]
  rintro ⟨hf, hb1, hb2⟩
  have h3 : fge y fNegOne = true := (fge_iff_ratValue hf isFinite_fNegOne).2 (by rwa [ratValue_fNegOne])
  have h4 : fge fOne y = true := (fge_iff_ratValue isFinite_fOne hf).2 (by rwa [ratValue_fOne])
  rw [not_isNaN_of_isFinite hf] at h
  simp [fge, fgt, flt] at h h3 h4
  omega

end Sys2Proof.Machine
end

