-- ==== Sys2Proof/Config.lean ====
section
/-!
DEFINITION. What the build of a DSCE fixes and the spec leaves open (00_scope.md R5 to R11,
92_eei_decisions.md "OPEN parameters"): the sizes, the quantizer's range, the parameters and seeds
at reset, as plain data; and the trigonometric units and the random source, as constants with no
body whose types carry exactly the properties the spec demands of them.
-/

namespace Sys2Proof

open Sys2Proof.Machine

/-! ### The parameter record -/

/-- WaveformShape, a closed set (10_state.md R29, 30_encoding.md R79). Codes 6 and 7 cannot be held
(40_waveform.md R108). -/
inductive Shape where
  /-- Code 0, 40_waveform.md R88. -/
  | sine
  /-- Code 1, 40_waveform.md R89. -/
  | square
  /-- Code 2, 40_waveform.md R90. -/
  | triangle
  /-- Code 3, 40_waveform.md R91. -/
  | sawtooth
  /-- Code 4, 40_waveform.md R93. -/
  | noise
  /-- Code 5, 40_waveform.md R92. -/
  | bounce
  deriving DecidableEq, Repr

/-- EvaluationMode, a closed set (10_state.md R29, 30_encoding.md R80). -/
inductive EvalMode where
  /-- Code 0. -/
  | dynamic
  /-- Code 1. -/
  | inPlace
  deriving DecidableEq, Repr

/-- WaveformParams, the parameter registers of one channel (10_state.md R28, R29). -/
structure Params where
  /-- `CH[j].AMPLITUDE`. -/
  amplitude : F32
  /-- `CH[j].FREQUENCY`. -/
  frequency : F32
  /-- `CH[j].PHASE`. -/
  phase : F32
  /-- `CH[j].OFFSET`. -/
  offset : F32
  /-- `CH[j].PDT`, the record's `dt`, read by no command (10_state.md R51). -/
  pdt : F32
  /-- `CH[j].SHAPE`. -/
  shape : Shape
  /-- `CH[j].MODE`. -/
  mode : EvalMode
  deriving DecidableEq, Repr

/-! ### The build's data -/

/-- The OPEN build parameters that are plain data (00_scope.md R5, R6, R8, R10, R11). -/
structure Build where
  /-- `CHANNELS` (R5). -/
  channels : Nat
  /-- `POINTS` (R6). -/
  points : Nat
  /-- `NORM_MIN` (R8). -/
  normMin : F32
  /-- `NORM_MAX` (R8). -/
  normMax : F32
  /-- `INIT_PARAMS[j]` for `0 <= j < CHANNELS` (R11). -/
  initParams : List Params
  /-- `INIT_SEED[j]` for `0 <= j < CHANNELS` (R10). -/
  initSeed : List Nat
  deriving DecidableEq, Repr

/-- The constraints of R5, R6, R8, R10 and R11 on a build. (A legal SHAPE code in `INIT_PARAMS` is
part of the type `Shape`.) -/
def Build.wf (b : Build) : Bool :=
  decide (1 ≤ b.channels) && decide (b.channels ≤ 16) &&
  decide (1 ≤ b.points) && decide (b.points ≤ 16384) &&
  isFinite b.normMin && isFinite b.normMax && flt b.normMin b.normMax &&
  isFinite (fsub b.normMax b.normMin) &&
  decide (b.initParams.length = b.channels) && decide (b.initSeed.length = b.channels)

namespace Config

/-- The record a channel of the default build holds at reset. The spec gives none (R11): all floats
`+0.0`, shape code 0, mode code 0. DESIGN CHOICE, log entry 2. -/
def zeroParams : Params :=
  { amplitude := posZero, frequency := posZero, phase := posZero, offset := posZero, pdt := posZero
    shape := .sine, mode := .dynamic }

/-- The build whose reset state is `State.reset`. The range is the spec's default (R8); the sizes,
records and seeds are open, and these are the model's. DESIGN CHOICE, log entries 1 to 4. -/
def defaultBuild : Build :=
  { channels := 3, points := 4, normMin := fNegOne, normMax := fOne
    initParams := [zeroParams, zeroParams, zeroParams], initSeed := [0, 0, 0] }

end Config

/-! ### The units the build brings -/

/-- A SIN unit: a function with the properties S1 to S5 of 00_scope.md R9, of which nothing else is
known. -/
structure SinUnit where
  /-- `SIN`. -/
  apply : F32 → F32 := sinWitness
  /-- S1. -/
  accurate : ∀ x, isFinite x = true →
    |((ratValue (apply x) : ℚ) : ℝ) - Real.sin (ratValue x)| ≤ 1 / 100000 := by
      exact sinWitness_accurate
  /-- S2. -/
  bounded : ∀ x, isFinite x = true → fge (apply x) fNegOne = true ∧ fge fOne (apply x) = true := by
    exact sinWitness_bounded
  /-- S3. -/
  sign : ∀ x, isFinite x = true → (fge (apply x) posZero = true ↔ 0 ≤ Real.sin (ratValue x)) := by
    exact sinWitness_sign
  /-- S4. -/
  zero : apply posZero = posZero ∧ apply negZero = negZero := by
    exact ⟨sinWitness_zero _ (by decide), sinWitness_zero _ (by decide)⟩
  /-- S5. -/
  nonFinite : ∀ x, isFinite x = false → apply x = qNaN := by
    exact sinWitness_nonFinite
  deriving Inhabited

/-- An ASIN unit: a function with the properties A1 to A3 of 00_scope.md R9, of which nothing else is
known. -/
structure AsinUnit where
  /-- `ASIN`. -/
  apply : F32 → F32 := asinWitness
  /-- A1. -/
  accurate : ∀ y, fge y fNegOne = true → fge fOne y = true →
    |((ratValue (apply y) : ℚ) : ℝ) - Real.arcsin (ratValue y)| ≤ 1 / 100000 := by
      exact asinWitness_accurate
  /-- A2. -/
  exactAt : apply posZero = posZero ∧ apply negZero = negZero ∧
    apply fOne = 0x3FC90FDB#32 ∧ apply fNegOne = 0xBFC90FDB#32 := by
      exact asinWitness_exact
  /-- A3. -/
  outside : ∀ y, (isNaN y = true ∨ fgt y fOne = true ∨ flt y fNegOne = true) → apply y = qNaN := by
    exact asinWitness_outside
  deriving Inhabited

/-- `NOISE_PRNG` (00_scope.md R10, 40_waveform.md R93): what `NOISE_PRNG.next(rng, lo, hi)` returns,
in two parts. Only the interval of a draw from a non-empty interval is known. -/
structure NoisePrng where
  /-- The value drawn. -/
  draw : Nat → F32 → F32 → F32 := fun _ lo _ => lo
  /-- The state after the draw. -/
  advance : Nat → F32 → F32 → Nat := fun rng _ _ => rng
  /-- `lo <= x < hi` where `lo < hi`. -/
  inInterval : ∀ rng lo hi, flt lo hi = true →
    fge (draw rng lo hi) lo = true ∧ flt (draw rng lo hi) hi = true := by
      intro rng lo hi h
      refine ⟨?_, h⟩
      simp only [flt, fge, Bool.and_eq_true, decide_eq_true_eq, le_refl, and_true] at *
      exact ⟨h.1.1, h.1.1⟩
  deriving Inhabited

/-- The build's SIN unit (00_scope.md R9; log entry 5). -/
opaque Config.sinUnit : SinUnit

/-- The build's ASIN unit (00_scope.md R9; log entry 5). -/
opaque Config.asinUnit : AsinUnit

/-- The build's random source (00_scope.md R10; log entry 6). -/
opaque Config.noisePrng : NoisePrng

end Sys2Proof
end

