-- ==== Sys2Proof/Machine/State.lean ====
section
/-!
DEFINITION. The state of a DSCE (10_state.md R25 to R52), the transactions of its host port
(20_memory.md R53), the reasons a step can stop (none of the spec's, 60_exceptions.md R135), and
the state after reset (10_state.md R47, 70_reset_and_hazards.md R149, R150).
-/

namespace Sys2Proof.Machine

/-! ### The host port (20_memory.md R53) -/

/-- The size of an access, `n` in `1, 2, 4` bytes (20_memory.md R53). -/
inductive AccessSize where
  /-- One byte. -/
  | byte
  /-- Two bytes. -/
  | half
  /-- Four bytes. -/
  | word
  deriving DecidableEq, Repr

/-- An n-byte value on the port (20_memory.md R53). -/
inductive PortData where
  /-- A one-byte value. -/
  | byte (v : Byte)
  /-- A two-byte value. -/
  | half (v : BitVec 16)
  /-- A four-byte value. -/
  | word (v : Word)
  deriving DecidableEq, Repr

/-- What the host does to the block: a read, a write (20_memory.md R53), or a pulse of the reset
input (70_reset_and_hazards.md R149). -/
inductive HostEvent where
  /-- `MemRead(addr, n)`. -/
  | read (addr : Addr) (n : AccessSize)
  /-- `MemWrite(addr, n, v)`, `n` being the size of `v`. -/
  | write (addr : Addr) (v : PortData)
  /-- The reset input asserted and released. -/
  | reset
  deriving DecidableEq, Repr

/-! ### The state -/

/-- The state of one channel (10_state.md R25, second item). -/
structure Channel where
  /-- The parameter record (R28, R29). -/
  params : Params
  /-- `CH[j].EN` (R30). -/
  en : Bool
  /-- `CH[j].TADV` (R30). -/
  tadv : Bool
  /-- `CH[j].STEP` (R31). -/
  step : F32
  /-- `TIME[j]` (R32). -/
  time : F32
  /-- `CACHE[j]` (R33). -/
  cache : F32
  /-- `RNG[j]` (R34); the type is the model's, log entry 3. -/
  rng : Nat
  /-- `SAMPLES[j][0..POINTS-1]` (R35). -/
  samples : List F32
  /-- `MASK[j][0..POINTS-1]` (R36). -/
  mask : List Bool
  /-- `RAW[j][0..POINTS-1]` (R37). -/
  raw : List F32
  deriving DecidableEq, Repr

/-- The state of the machine: the spec's state (10_state.md R25) and three fields of the model. -/
structure State where
  /-- The build's parameters: arguments of the model (00_scope.md R22), changed by nothing. The
  MODEL's field, log entry 1. `G.CONFIG` (R26) is read from it. -/
  build : Build
  /-- `G.STATUS.BADCMD` (R27). -/
  badcmd : Bool
  /-- `G.STATUS.NOTFOUND` (R27). -/
  notfound : Bool
  /-- `G.ARG_T` (R40). -/
  argT : F32
  /-- `G.ARG_DT` (R40). -/
  argDt : F32
  /-- `G.ARG_VALUE` (R41). -/
  argValue : F32
  /-- `G.ARG_RGBB` (R42). -/
  argRgbb : Word
  /-- `G.RESULT` (R43). -/
  result : Word
  /-- `G.LED_BRIGHTNESS[4:0]` (R44); bits 31..5 read 0. -/
  ledBrightness : BitVec 5
  /-- `MAPPED[0..POINTS-1]` (R38). -/
  mapped : List Word
  /-- The channels `0..CHANNELS-1` (R25). -/
  channels : List Channel
  /-- The host's transactions not yet performed, in the order issued (20_memory.md R53, R67). The
  MODEL's field, log entry 7. -/
  pending : List HostEvent
  /-- What the port returned for the last transaction: a value for a read. The MODEL's field, log
  entry 7. -/
  reply : Option PortData
  deriving DecidableEq, Repr

/-! ### Stops -/

/-- The DSCE raises no exception and takes no trap: no command, access or value stops it
(60_exceptions.md R135). So there is no fault to raise. -/
inductive Fault where
  deriving DecidableEq, Repr

/-- Why the model may refuse an instruction. -/
inductive Refusal where
  /-- Raised by an arm of `exec` for an instruction without a meaning in this model; safe. No arm
  raises it: every instruction has its meaning. -/
  | notModelled (mnemonic : String)
  deriving DecidableEq, Repr

/-! ### Reset -/

/-- Channel `j` of build `b` after reset (10_state.md R47). -/
def Channel.resetOf (b : Build) (j : Nat) : Channel :=
  { params := b.initParams.getD j Config.zeroParams
    en := true
    tadv := true
    step := fdiv fOne (i2f b.points)
    time := posZero
    cache := posZero
    rng := b.initSeed.getD j 0
    samples := List.replicate b.points posZero
    mask := List.replicate b.points false
    raw := List.replicate b.points posZero }

/-- Build `b` after reset (10_state.md R47), with no transaction waiting. -/
def State.resetOf (b : Build) : State :=
  { build := b
    badcmd := false
    notfound := false
    argT := 0x00000000#32
    argDt := 0x00000000#32
    argValue := 0x00000000#32
    argRgbb := 0x00000000#32
    result := 0x00000000#32
    ledBrightness := 0x1F#5
    mapped := List.replicate b.points 0x00000000#32
    channels := (List.range b.channels).map (Channel.resetOf b)
    pending := []
    reply := none }

/-- The machine right after reset, for the build of `Config.defaultBuild` (log entries 1 to 4). -/
def State.reset : State := State.resetOf Config.defaultBuild

end Sys2Proof.Machine
end

