-- ==== Sys2Proof/Machine/Ops.lean ====
section
/-!
DEFINITION. The named operations over the registers and buffers, which every meaning is written
with: reads and writes of buffer elements, of a channel and of the global registers, and the loop of
00_scope.md R17. (The DSCE takes no exception, 60_exceptions.md R135, R142, R143, so there is no
operation that enters or leaves one.)
-/

namespace Sys2Proof.Machine

/-- `for i in 0..n-1`, upward (00_scope.md R17). -/
def forUpto {α : Type} (n : Nat) (body : Nat → α → α) (start : α) : α :=
  (List.range n).foldl (fun acc i => body i acc) start

/-! ### One channel -/

/-- `RAW[j][i]` of this channel. -/
def Channel.rawAt (ch : Channel) (i : Nat) : F32 := ch.raw.getD i posZero

/-- `SAMPLES[j][i]` of this channel. -/
def Channel.sampleAt (ch : Channel) (i : Nat) : F32 := ch.samples.getD i posZero

/-- `MASK[j][i]` of this channel. -/
def Channel.maskAt (ch : Channel) (i : Nat) : Bool := ch.mask.getD i false

/-- `RAW[j][i] <- v`. -/
def Channel.setRaw (ch : Channel) (i : Nat) (v : F32) : Channel := { ch with raw := ch.raw.set i v }

/-- `SAMPLES[j][i] <- v`. -/
def Channel.setSample (ch : Channel) (i : Nat) (v : F32) : Channel :=
  { ch with samples := ch.samples.set i v }

/-- `MASK[j][i] <- b`. -/
def Channel.setMask (ch : Channel) (i : Nat) (b : Bool) : Channel :=
  { ch with mask := ch.mask.set i b }

/-- `CACHE[j] <- v`. -/
def Channel.setCache (ch : Channel) (v : F32) : Channel := { ch with cache := v }

/-- `TIME[j] <- v`. -/
def Channel.setTime (ch : Channel) (v : F32) : Channel := { ch with time := v }

/-- `RNG[j] <- r`. -/
def Channel.setRng (ch : Channel) (r : Nat) : Channel := { ch with rng := r }

/-- `CH[j].STEP <- v`. -/
def Channel.setStep (ch : Channel) (v : F32) : Channel := { ch with step := v }

/-- `CH[j].EN <- e` and `CH[j].TADV <- t`. -/
def Channel.setCtrl (ch : Channel) (e t : Bool) : Channel := { ch with en := e, tadv := t }

/-- Replace the parameter record. -/
def Channel.setParams (ch : Channel) (p : Params) : Channel := { ch with params := p }

/-! ### The machine -/

/-- A channel that no build has, all zero: what `State.chan` answers past the last channel. -/
def Channel.absent : Channel :=
  { params := Config.zeroParams, en := false, tadv := false, step := posZero, time := posZero
    cache := posZero, rng := 0, samples := [], mask := [], raw := [] }

/-- Channel `j`. -/
def State.chan (s : State) (j : Nat) : Channel := s.channels.getD j Channel.absent

/-- Put `ch` back as channel `j`. -/
def State.setChan (s : State) (j : Nat) (ch : Channel) : State :=
  { s with channels := s.channels.set j ch }

/-- `MAPPED[i]`. -/
def State.mappedAt (s : State) (i : Nat) : Word := s.mapped.getD i 0x00000000#32

/-- `MAPPED[i] <- w`. -/
def State.setMapped (s : State) (i : Nat) (w : Word) : State := { s with mapped := s.mapped.set i w }

/-- `G.RESULT <- w`. -/
def State.setResult (s : State) (w : Word) : State := { s with result := w }

/-- `G.ARG_T <- w`. -/
def State.setArgT (s : State) (w : Word) : State := { s with argT := w }

/-- `G.ARG_DT <- w`. -/
def State.setArgDt (s : State) (w : Word) : State := { s with argDt := w }

/-- `G.ARG_VALUE <- w`. -/
def State.setArgValue (s : State) (w : Word) : State := { s with argValue := w }

/-- `G.ARG_RGBB <- w`. -/
def State.setArgRgbb (s : State) (w : Word) : State := { s with argRgbb := w }

/-- `G.LED_BRIGHTNESS[4:0] <- b`. -/
def State.setLedBrightness (s : State) (b : BitVec 5) : State := { s with ledBrightness := b }

/-- `G.STATUS.BADCMD <- b`. -/
def State.setBadcmd (s : State) (b : Bool) : State := { s with badcmd := b }

/-- `G.STATUS.NOTFOUND <- b`. -/
def State.setNotfound (s : State) (b : Bool) : State := { s with notfound := b }

/-- The host's transactions still to come, and the port's answer to the one just taken. -/
def State.setPort (s : State) (rest : List HostEvent) (r : Option PortData) : State :=
  { s with pending := rest, reply := r }

end Sys2Proof.Machine
end

