-- ==== Sys2Proof/Machine/Flags.lean ====
section
/-!
DEFINITION. The two flags of `G.STATUS` (10_state.md R27, R48; 60_exceptions.md R136, R137).
-/

namespace Sys2Proof.Machine

/-- What a word that spells no command does: `G.STATUS.BADCMD <- 1` and nothing else
(30_encoding.md R77). -/
def flagBadCommand (s : State) : State := s.setBadcmd true

/-- What a GEN_* command does to `G.STATUS.NOTFOUND`: 1 when its channel is CHANNELS or more, else 0
(10_state.md R27, 60_exceptions.md R137). -/
def markFound (s : State) (c : Nat) : State := s.setNotfound (decide (s.build.channels ≤ c))

/-- A host write to `G.STATUS`: a one in bit 0 clears BADCMD, and nothing else is written
(10_state.md R27). -/
def writeStatus (s : State) (w : Word) : State := if w.getLsbD 0 then s.setBadcmd false else s

/-- `G.STATUS` as the host reads it: BADCMD in bit 0, NOTFOUND in bit 1 (10_state.md R27). -/
def statusWord (s : State) : Word := 0#30 ++ BitVec.ofBool s.notfound ++ BitVec.ofBool s.badcmd

end Sys2Proof.Machine
end

