-- ==== Sys2Proof/Machine/Operands.lean ====
section
/-!
DEFINITION. The bit layouts of the register values: the selector codes (30_encoding.md R79, R80), the
control word (10_state.md R30), `G.ARG_RGBB` (R42), `G.LED_BRIGHTNESS` (R44), `G.CONFIG` (R26), and
the byte order of a word (00_scope.md R13, 20_memory.md R60).
-/

namespace Sys2Proof.Machine

/-- Byte `k` of a word, byte 0 the least significant. -/
def byteOf (w : Word) (k : Nat) : Byte := w.extractLsb' (8 * k) 8

/-- `bswap32(w) = {w[7:0], w[15:8], w[23:16], w[31:24]}` (00_scope.md R13). -/
def bswap32 (w : Word) : Word := byteOf w 0 ++ byteOf w 1 ++ byteOf w 2 ++ byteOf w 3

/-! ### SHAPE and MODE -/

/-- The shape of a SHAPE code; 6 and 7 are none (30_encoding.md R79). -/
def shapeOfCode (n : Nat) : Option Shape :=
  match n with
  | 0 => some .sine
  | 1 => some .square
  | 2 => some .triangle
  | 3 => some .sawtooth
  | 4 => some .noise
  | 5 => some .bounce
  | _ => none

/-- The SHAPE code of a shape (30_encoding.md R79). -/
def shapeCode (sh : Shape) : BitVec 3 :=
  match sh with
  | .sine => 0#3
  | .square => 1#3
  | .triangle => 2#3
  | .sawtooth => 3#3
  | .noise => 4#3
  | .bounce => 5#3

/-- The mode of bit 8 (30_encoding.md R80). -/
def modeOfBit (b : Bool) : EvalMode := if b then .inPlace else .dynamic

/-- Bit 8 of a mode (30_encoding.md R80). -/
def modeBit (m : EvalMode) : Bool :=
  match m with
  | .dynamic => false
  | .inPlace => true

/-- `CH[j].SHAPE_MODE` as the host reads it (10_state.md R29): bits 31..9 and 7..3 read 0. -/
def shapeModeWord (p : Params) : Word :=
  0#23 ++ BitVec.ofBool (modeBit p.mode) ++ 0#5 ++ shapeCode p.shape

/-- A host write to `CH[j].SHAPE_MODE` (10_state.md R29): codes 6 and 7 leave SHAPE unchanged, MODE is
stored in every case. -/
def writeShapeMode (p : Params) (w : Word) : Params :=
  { p with
    shape := (shapeOfCode (w.extractLsb' 0 3).toNat).getD p.shape
    mode := modeOfBit (w.getLsbD 8) }

/-! ### CTRL, CONFIG, LED_BRIGHTNESS -/

/-- `CH[j].CTRL` as the host reads it: EN in bit 0, TADV in bit 1 (10_state.md R30). -/
def ctrlWord (ch : Channel) : Word := 0#30 ++ BitVec.ofBool ch.tadv ++ BitVec.ofBool ch.en

/-- A host write to `CH[j].CTRL` (10_state.md R30). -/
def writeCtrl (ch : Channel) (w : Word) : Channel := ch.setCtrl (w.getLsbD 0) (w.getLsbD 1)

/-- `G.CONFIG = {zext_16(POINTS), 0x00, zext_8(CHANNELS)}` (10_state.md R26). -/
def configWord (b : Build) : Word := BitVec.ofNat 16 b.points ++ 0#8 ++ BitVec.ofNat 8 b.channels

/-- `G.LED_BRIGHTNESS` as the host reads it (10_state.md R44). -/
def ledBrightnessWord (s : State) : Word := 0#27 ++ s.ledBrightness

/-! ### ARG_RGBB (10_state.md R42) -/

/-- `r`, bits 7..0. -/
def rgbbRed (w : Word) : Byte := byteOf w 0

/-- `g`, bits 15..8. -/
def rgbbGreen (w : Word) : Byte := byteOf w 1

/-- `b`, bits 23..16. -/
def rgbbBlue (w : Word) : Byte := byteOf w 2

/-- The brightness input byte, bits 31..24. -/
def rgbbBrightness (w : Word) : Byte := byteOf w 3

end Sys2Proof.Machine
end

