-- ==== Sys2Proof/Machine/Pixel.lean ====
section
/-!
DEFINITION. The pixel encoder: the quantizer, the lane code, the LED word, the two encoders of MAP
(42_encoder.md R125 to R130), and the commands QUANTIZE and FORMAT_LED (R131, R132).
-/

namespace Sys2Proof.Machine

/-- The clamp of Q8 to `[NORM_MIN, NORM_MAX]` (42_encoder.md R125). -/
def clampNorm (b : Build) (v : F32) : F32 :=
  if flt v b.normMin then b.normMin else if fgt v b.normMax then b.normMax else v

/-- The rescaled value of Q8, before it is truncated (42_encoder.md R125). -/
def rescaled (b : Build) (v : F32) : F32 :=
  fmul (fdiv (fsub (clampNorm b v) b.normMin) (fsub b.normMax b.normMin)) f255

/-- `Q8(v)`; a NaN is code 0 (42_encoder.md R125). -/
def q8 (b : Build) (v : F32) : Byte := if isNaN v then 0#8 else trunc8 (rescaled b v)

/-- `LANE(v, c)`: zero from lane 4 on (42_encoder.md R127). -/
def laneCode (b : Build) (v : F32) (c : Nat) : Word :=
  if c < 4 then (q8 b v).setWidth 32 <<< (8 * c) else 0x00000000#32

/-- `FMT_LED(r, g, b, br)`; bits 7..5 of `br` are dropped (42_encoder.md R128). -/
def fmtLed (r g bl br : Byte) : Word :=
  0xE0000000#32 ||| ((br &&& 0x1F#8).setWidth 32 <<< 24) ||| (bl.setWidth 32 <<< 16) |||
    (g.setWidth 32 <<< 8) ||| r.setWidth 32

/-- `ENC_LANE(v, c)` (42_encoder.md R129). -/
def encLane (s : State) (v : F32) (c : Nat) : Word := laneCode s.build v c

/-- `ENC_LED(v, c)`: red, green and blue for channels 0, 1 and 2, and the marker and brightness alone
from channel 3 on (42_encoder.md R130). -/
def encLed (s : State) (v : F32) (c : Nat) : Word :=
  let q := q8 s.build v
  let lb := s.ledBrightness.setWidth 8
  match c with
  | 0 => fmtLed q 0#8 0#8 lb
  | 1 => fmtLed 0#8 q 0#8 lb
  | 2 => fmtLed 0#8 0#8 q lb
  | _ => fmtLed 0#8 0#8 0#8 lb

/-- `ENC(e, v, c)` (41_engine.md R112). -/
def encodeSample (s : State) (e : Encoder) (v : F32) (c : Nat) : Word :=
  match e with
  | .lane => encLane s v c
  | .led => encLed s v c

/-- QUANTIZE: `c` is a lane number, not a channel of the build (42_encoder.md R131). -/
def execQuantize (c : Nat) (s : State) : Host.Outcome State Fault Refusal :=
  .next (s.setResult (laneCode s.build s.argValue c))

/-- FORMAT_LED (42_encoder.md R132). -/
def execFormatLed (s : State) : Host.Outcome State Fault Refusal :=
  .next (s.setResult (fmtLed (rgbbRed s.argRgbb) (rgbbGreen s.argRgbb) (rgbbBlue s.argRgbb)
    (rgbbBrightness s.argRgbb)))

end Sys2Proof.Machine
end

