-- ==== Sys2Proof/Machine/Shapes.lean ====
section
/-!
DEFINITION. The shape functions of the waveform evaluator (40_waveform.md R87 to R94), each formula in
the primitives and the order its rule prints.
-/

namespace Sys2Proof.Machine

/-- `phase_t = fadd(t, fmul(i2f(i), dt))`, index 0 included (40_waveform.md R87). -/
def phaseT (t dt : F32) (i : Nat) : F32 := fadd t (fmul (i2f i) dt)

/-- `theta = fadd(fmul(fmul(TWO_PI, freq), phase_t), phase)` (40_waveform.md R87). -/
def thetaOf (p : Params) (pt : F32) : F32 := fadd (fmul (fmul fTwoPi p.frequency) pt) p.phase

/-- SINE (40_waveform.md R88). -/
def sineShape (p : Params) (theta : F32) : F32 :=
  fadd p.offset (fmul p.amplitude (Config.sinUnit.apply theta))

/-- SQUARE (40_waveform.md R89): a NaN product takes the `-1.0` branch. -/
def squareShape (p : Params) (theta : F32) : F32 :=
  fadd p.offset
    (if fge (fmul p.amplitude (Config.sinUnit.apply theta)) posZero then fOne else fNegOne)

/-- TRIANGLE (40_waveform.md R90). -/
def triangleShape (p : Params) (theta : F32) : F32 :=
  fadd p.offset
    (fmul (fdiv (fmul fTwo p.amplitude) fPi) (Config.asinUnit.apply (Config.sinUnit.apply theta)))

/-- SAWTOOTH (40_waveform.md R91): the `- 1.0` stands outside the amplitude product. -/
def sawtoothShape (p : Params) (theta : F32) : F32 :=
  fsub (fadd p.offset (fdiv (fmul p.amplitude (ffmod theta fTwoPi)) fPi)) fOne

/-- TRI, the unit triangle wave of period 1, folded at 0.5 (40_waveform.md R92). -/
def triWave (x : F32) : F32 :=
  let f := fsub x (ffloor x)
  if flt f fHalf then fmul fTwo f else fmul fTwo (fsub fOne f)

/-- BOUNCE, a function of `phase_t` and not of theta (40_waveform.md R92). -/
def bounceShape (p : Params) (pt : F32) : F32 :=
  fadd p.offset (fmul (triWave (fmul pt p.frequency)) (fsub p.amplitude p.offset))

/-- The upper end of the Noise interval, `fadd(off, amp)` (40_waveform.md R93). -/
def noiseHigh (p : Params) : F32 := fadd p.offset p.amplitude

/-- The value of NOISE (40_waveform.md R93): a draw from `[off, hi)`, and where that is empty the
offset, as the canonical NaN if it is a NaN. -/
def noiseShape (p : Params) (rng : Nat) : F32 :=
  if flt p.offset (noiseHigh p) then Config.noisePrng.draw rng p.offset (noiseHigh p)
  else if isNaN p.offset then qNaN
  else p.offset

/-- The random source after one Noise evaluation: it advances once, whether or not the interval is
empty (40_waveform.md R93). -/
def noiseAdvance (p : Params) (rng : Nat) : Nat :=
  Config.noisePrng.advance rng p.offset (noiseHigh p)

/-- EVAL: the value at time `t`, step `dt` and index `i`, by SHAPE (40_waveform.md R94). -/
def evalShape (p : Params) (rng : Nat) (t dt : F32) (i : Nat) : F32 :=
  let pt := phaseT t dt i
  let theta := thetaOf p pt
  match p.shape with
  | .sine => sineShape p theta
  | .square => squareShape p theta
  | .triangle => triangleShape p theta
  | .sawtooth => sawtoothShape p theta
  | .noise => noiseShape p rng
  | .bounce => bounceShape p pt

/-- The random source after EVAL: only a Noise evaluation advances it (10_state.md R34,
40_waveform.md R104). -/
def evalRng (p : Params) (rng : Nat) : Nat :=
  match p.shape with
  | .sine => rng
  | .square => rng
  | .triangle => rng
  | .sawtooth => rng
  | .noise => noiseAdvance p rng
  | .bounce => rng

end Sys2Proof.Machine
end

