-- ==== Sys2Proof/Machine/Waveform.lean ====
section
/-!
DEFINITION. The evaluation of one sample (40_waveform.md R95) and the four GEN_* commands (R97 to
R100).
-/

namespace Sys2Proof.Machine

/-! ### update_point (40_waveform.md R95) -/

/-- The channel caches: Bounce in either mode, and any shape InPlace (90_conflicts.md C6). -/
def caching (p : Params) : Bool := p.shape == .bounce || p.mode == .inPlace

/-- The evaluation at index `i` takes the cached index-0 value instead of evaluating. -/
def readsCache (p : Params) (i : Nat) : Bool := decide (0 < i) && caching p

/-- The value `v` of an in-range evaluation. -/
def pointValue (ch : Channel) (t dt : F32) (i : Nat) : F32 :=
  if readsCache ch.params i then ch.cache else evalShape ch.params ch.rng t dt i

/-- The random source after an in-range evaluation. -/
def pointRng (ch : Channel) (i : Nat) : Nat :=
  if readsCache ch.params i then ch.rng else evalRng ch.params ch.rng

/-- What an in-range evaluation with value `v` writes: RNG, CACHE at index 0, and the sample. -/
def storePoint (ch : Channel) (i : Nat) (v : F32) : Channel :=
  let ch' := ch.setRng (pointRng ch i)
  (if i = 0 then ch'.setCache v else ch').setSample i v

/-- What `update_point(j, t, dt, i)` returns; `+0.0` past the last point. -/
def updatePointValue (points : Nat) (ch : Channel) (t dt : F32) (i : Nat) : F32 :=
  if i < points then pointValue ch t dt i else posZero

/-- The channel after `update_point(j, t, dt, i)`; unchanged past the last point. -/
def updatePoint (points : Nat) (ch : Channel) (t dt : F32) (i : Nat) : Channel :=
  if i < points then storePoint ch i (pointValue ch t dt i) else ch

/-- `update(t, dt)`: `update_point` at every index in order (40_waveform.md R98). -/
def updateAll (points : Nat) (ch : Channel) (t dt : F32) : Channel :=
  forUpto points (fun i c => updatePoint points c t dt i) ch

/-- The generator's `reset()`: zero the samples and the exclusion flags (40_waveform.md R99). -/
def clearSamples (points : Nat) (ch : Channel) : Channel :=
  forUpto points (fun i c => (c.setSample i posZero).setMask i false) ch

/-- `mask(index)`: toggle one exclusion flag, and nothing past the last point (40_waveform.md R100). -/
def toggleMask (points : Nat) (ch : Channel) (i : Nat) : Channel :=
  if i < points then ch.setMask i (!ch.maskAt i) else ch

/-! ### The commands -/

/-- The shared shape of a GEN_* command (40_waveform.md R97 to R100): NOTFOUND is written, and `body`
runs when the channel exists. -/
def onGenerator (s : State) (c : Nat) (body : State → State) : State :=
  if s.build.channels ≤ c then markFound s c else body (markFound s c)

/-- GEN_UPDATE_POINT (40_waveform.md R97). -/
def execGenUpdatePoint (c i : Nat) (s : State) : Host.Outcome State Fault Refusal :=
  .next (onGenerator s c fun s =>
    (s.setChan c (updatePoint s.build.points (s.chan c) s.argT s.argDt i)).setResult
      (updatePointValue s.build.points (s.chan c) s.argT s.argDt i))

/-- GEN_UPDATE (40_waveform.md R98); RESULT, RAW and TIME stay. -/
def execGenUpdate (c : Nat) (s : State) : Host.Outcome State Fault Refusal :=
  .next (onGenerator s c fun s =>
    s.setChan c (updateAll s.build.points (s.chan c) s.argT s.argDt))

/-- GEN_RESET (40_waveform.md R99); CACHE and RNG stay. -/
def execGenReset (c : Nat) (s : State) : Host.Outcome State Fault Refusal :=
  .next (onGenerator s c fun s => s.setChan c (clearSamples s.build.points (s.chan c)))

/-- GEN_MASK (40_waveform.md R100). -/
def execGenMask (c i : Nat) (s : State) : Host.Outcome State Fault Refusal :=
  .next (onGenerator s c fun s => s.setChan c (toggleMask s.build.points (s.chan c) i))

end Sys2Proof.Machine
end

