-- ==== Sys2Proof/Machine/Engine.lean ====
section
/-!
DEFINITION. The frame compositor and finalizer: UPDATE, TRESET, MAP, CLEAR and FINALIZE
(41_engine.md R109 to R116).
-/

namespace Sys2Proof.Machine

/-! ### UPDATE (41_engine.md R109) -/

/-- One index of one channel in UPDATE: `RAW[j][i] <- update_point(j, t, dt, i)`. -/
def tickPoint (points : Nat) (t dt : F32) (i : Nat) (ch : Channel) : Channel :=
  (updatePoint points ch t dt i).setRaw i (updatePointValue points ch t dt i)

/-- All indices of one channel in UPDATE, with `t` and `dt` read once before them. -/
def tickPoints (points : Nat) (ch : Channel) : Channel :=
  forUpto points (tickPoint points ch.time ch.step) ch

/-- The time advance of one channel: `TIME[j] <- fadd(TIME[j], CH[j].STEP)` when TADV is 1. -/
def advanceTime (ch : Channel) : Channel :=
  if ch.tadv then ch.setTime (fadd ch.time ch.step) else ch

/-- One channel's part of UPDATE. -/
def tickChannel (points : Nat) (ch : Channel) : Channel := advanceTime (tickPoints points ch)

/-- UPDATE: every channel in turn, enabled or not (41_engine.md R109). -/
def execUpdate (s : State) : Host.Outcome State Fault Refusal :=
  .next (forUpto s.build.channels
    (fun j s => s.setChan j (tickChannel s.build.points (s.chan j))) s)

/-! ### The other commands -/

/-- TRESET: every time accumulator to `+0.0` (41_engine.md R110). -/
def execTreset (s : State) : Host.Outcome State Fault Refusal :=
  .next (forUpto s.build.channels (fun j s => s.setChan j ((s.chan j).setTime posZero)) s)

/-- MAP composes channel `c`: it exists and is enabled (41_engine.md R111). -/
def mapsChannel (s : State) (c : Nat) : Bool := decide (c < s.build.channels) && (s.chan c).en

/-- OR channel `c` into the packed buffer through encoder `e` (41_engine.md R111). -/
def composeChannel (c : Nat) (e : Encoder) (s : State) : State :=
  forUpto s.build.points
    (fun i s => s.setMapped i (s.mappedAt i ||| encodeSample s e ((s.chan c).rawAt i) c)) s

/-- MAP: nothing happens for a channel that is absent or disabled (41_engine.md R111). -/
def execMap (c : Nat) (e : Encoder) (s : State) : Host.Outcome State Fault Refusal :=
  .next (if mapsChannel s c then composeChannel c e s else s)

/-- CLEAR: zero the packed buffer (41_engine.md R113). -/
def execClear (s : State) : Host.Outcome State Fault Refusal :=
  .next (forUpto s.build.points (fun i s => s.setMapped i 0x00000000#32) s)

/-- One word of FINALIZE: the marker stamped into bits 31..29, then the bytes ordered
(41_engine.md R115). -/
def finalizeWord (d : ByteOrder) (m : Word) : Word :=
  let w := m ||| 0xE0000000#32
  match d with
  | .little => w
  | .big => bswap32 w

/-- FINALIZE: stamp and order every word in place (41_engine.md R115). -/
def execFinalize (d : ByteOrder) (s : State) : Host.Outcome State Fault Refusal :=
  .next (forUpto s.build.points (fun i s => s.setMapped i (finalizeWord d (s.mappedAt i))) s)

end Sys2Proof.Machine
end

