-- ==== Sys2Proof/Machine/Dispatch.lean ====
section
/-!
DEFINITION. The meaning of every command, one arm per constructor of `Instr` (30_encoding.md R75).
-/

namespace Sys2Proof.Machine

def exec (i : Instr) (s : State) : Host.Outcome State Fault Refusal :=
  match i with
  | .update => Sys2Proof.Machine.execUpdate s
  | .treset => Sys2Proof.Machine.execTreset s
  | .map c e => Sys2Proof.Machine.execMap c e s
  | .clear => Sys2Proof.Machine.execClear s
  | .finalize d => Sys2Proof.Machine.execFinalize d s
  | .genUpdatePoint c x => Sys2Proof.Machine.execGenUpdatePoint c x s
  | .genUpdate c => Sys2Proof.Machine.execGenUpdate c s
  | .genReset c => Sys2Proof.Machine.execGenReset c s
  | .genMask c x => Sys2Proof.Machine.execGenMask c x s
  | .quantize c => Sys2Proof.Machine.execQuantize c s
  | .formatLed => Sys2Proof.Machine.execFormatLed s

end Sys2Proof.Machine
end

