-- ==== Sys2Proof/Machine/Bus.lean ====
section
/-!
DEFINITION. The host port: the address map (20_memory.md R55 to R57), legal accesses (R58, R59), what a
read returns and a write does (R60 to R64), a command written to `G.CMD` (10_state.md R39,
30_encoding.md R77, R78), and one transaction (00_scope.md R22).
-/

namespace Sys2Proof.Machine

/-! ### The address map -/

/-- The registers of 20_memory.md R56. -/
inductive GlobalReg where
  /-- `G.CONFIG`, read-only. -/
  | config
  /-- `G.STATUS`, bit 0 write-1-to-clear. -/
  | status
  /-- `G.CMD`, write-only. -/
  | cmd
  /-- `G.ARG_T`. -/
  | argT
  /-- `G.ARG_DT`. -/
  | argDt
  /-- `G.ARG_VALUE`. -/
  | argValue
  /-- `G.ARG_RGBB`. -/
  | argRgbb
  /-- `G.RESULT`, read-only. -/
  | result
  /-- `G.LED_BRIGHTNESS`. -/
  | ledBrightness
  deriving DecidableEq, Repr

/-- The registers of 20_memory.md R57. -/
inductive ChannelReg where
  /-- `CH[j].AMPLITUDE`. -/
  | amplitude
  /-- `CH[j].FREQUENCY`. -/
  | frequency
  /-- `CH[j].PHASE`. -/
  | phase
  /-- `CH[j].OFFSET`. -/
  | offset
  /-- `CH[j].PDT`. -/
  | pdt
  /-- `CH[j].SHAPE_MODE`. -/
  | shapeMode
  /-- `CH[j].CTRL`. -/
  | ctrl
  /-- `CH[j].STEP`. -/
  | step
  /-- `CH[j].TIME`, read-only. -/
  | time
  /-- `CH[j].CACHE`, read-only. -/
  | cache
  deriving DecidableEq, Repr

/-- The regions of 20_memory.md R55. -/
inductive Region where
  /-- `0x000000-0x000FFF`. -/
  | globals
  /-- `0x001000-0x001FFF`. -/
  | channelRegs
  /-- `0x010000-0x01FFFF`. -/
  | frame
  /-- `0x100000-0x1FFFFF`. -/
  | raw
  /-- `0x200000-0x2FFFFF`. -/
  | samples
  /-- `0x300000-0x3FFFFF`. -/
  | mask
  /-- Everything else. -/
  | unmapped
  deriving DecidableEq, Repr

/-- The region of an address (20_memory.md R55). -/
def regionOf (a : Addr) : Region :=
  let n := a.toNat
  if n < 0x001000 then .globals
  else if n < 0x002000 then .channelRegs
  else if n < 0x010000 then .unmapped
  else if n < 0x020000 then .frame
  else if n < 0x100000 then .unmapped
  else if n < 0x200000 then .raw
  else if n < 0x300000 then .samples
  else if n < 0x400000 then .mask
  else .unmapped

/-- The register at a global offset (20_memory.md R56). -/
def globalRegAt (off : Nat) : Option GlobalReg :=
  match off with
  | 0x000 => some .config
  | 0x004 => some .status
  | 0x008 => some .cmd
  | 0x00C => some .argT
  | 0x010 => some .argDt
  | 0x014 => some .argValue
  | 0x018 => some .argRgbb
  | 0x01C => some .result
  | 0x020 => some .ledBrightness
  | _ => none

/-- The register at a channel offset (20_memory.md R57). -/
def channelRegAt (off : Nat) : Option ChannelReg :=
  match off with
  | 0x00 => some .amplitude
  | 0x04 => some .frequency
  | 0x08 => some .phase
  | 0x0C => some .offset
  | 0x10 => some .pdt
  | 0x14 => some .shapeMode
  | 0x18 => some .ctrl
  | 0x1C => some .step
  | 0x20 => some .time
  | 0x24 => some .cache
  | _ => none

/-- The existing state an address names, or that it is empty (20_memory.md R55). -/
inductive Target where
  /-- A global register. -/
  | globalReg (r : GlobalReg)
  /-- A register of channel `j`. -/
  | channelReg (j : Nat) (r : ChannelReg)
  /-- Byte `k` of the frame window. -/
  | frame (k : Nat)
  /-- `RAW[j][i]`. -/
  | raw (j i : Nat)
  /-- `SAMPLES[j][i]`. -/
  | samples (j i : Nat)
  /-- `MASK[j][i]`. -/
  | mask (j i : Nat)
  /-- No existing state. -/
  | empty
  deriving DecidableEq, Repr

/-- The element `[j][i]` at offset `n` of a buffer region, when it exists. -/
def elementAt (b : Build) (mk : Nat → Nat → Target) (n : Nat) : Target :=
  if n / 0x10000 < b.channels ∧ n % 0x10000 / 4 < b.points then mk (n / 0x10000) (n % 0x10000 / 4)
  else .empty

/-- The register at offset `n` of the channel windows, when its channel exists (20_memory.md R57). -/
def channelTarget (b : Build) (n : Nat) : Target :=
  match channelRegAt (n % 0x100) with
  | some r => if n / 0x100 < b.channels then .channelReg (n / 0x100) r else .empty
  | none => .empty

/-- What a (legal) address names in build `b` (20_memory.md R55 to R57). -/
def targetOf (b : Build) (a : Addr) : Target :=
  let n := a.toNat
  match regionOf a with
  | .globals =>
    match globalRegAt n with
    | some r => .globalReg r
    | none => .empty
  | .channelRegs => channelTarget b (n - 0x001000)
  | .frame => if n - 0x010000 < 4 * b.points then .frame (n - 0x010000) else .empty
  | .raw => elementAt b .raw (n - 0x100000)
  | .samples => elementAt b .samples (n - 0x200000)
  | .mask => elementAt b .mask (n - 0x300000)
  | .unmapped => .empty

/-! ### Legal accesses (20_memory.md R58) -/

/-- The size of an access in bytes. -/
def sizeBytes (n : AccessSize) : Nat :=
  match n with
  | .byte => 1
  | .half => 2
  | .word => 4

/-- A 32-bit access at a multiple of 4. -/
def wordAligned (a : Addr) (n : AccessSize) : Bool := n == .word && a.toNat % 4 == 0

/-- A read is legal (20_memory.md R58). -/
def readLegal (a : Addr) (n : AccessSize) : Bool :=
  match regionOf a with
  | .globals => wordAligned a n
  | .channelRegs => wordAligned a n
  | .frame => a.toNat % sizeBytes n == 0
  | .raw => wordAligned a n
  | .samples => wordAligned a n
  | .mask => wordAligned a n
  | .unmapped => false

/-- A write is legal: to a register, of 32 bits, aligned (20_memory.md R58). -/
def writeLegal (a : Addr) (n : AccessSize) : Bool :=
  match regionOf a with
  | .globals => wordAligned a n
  | .channelRegs => wordAligned a n
  | .frame => false
  | .raw => false
  | .samples => false
  | .mask => false
  | .unmapped => false

/-! ### Reads -/

/-- The value 0 of a size, what an illegal or empty read returns (20_memory.md R59). -/
def zeroData (n : AccessSize) : PortData :=
  match n with
  | .byte => .byte 0#8
  | .half => .half 0#16
  | .word => .word 0#32

/-- `B[k]`, byte `k` of the byte view of MAPPED (20_memory.md R60). -/
def frameByte (s : State) (k : Nat) : Byte := byteOf (s.mappedAt (k / 4)) (k % 4)

/-- A read of the frame window: `B[k]` is the least significant byte (20_memory.md R60). -/
def frameData (s : State) (k : Nat) (n : AccessSize) : PortData :=
  match n with
  | .byte => .byte (frameByte s k)
  | .half => .half (frameByte s (k + 1) ++ frameByte s k)
  | .word =>
    .word (frameByte s (k + 3) ++ frameByte s (k + 2) ++ frameByte s (k + 1) ++ frameByte s k)

/-- The value of a global register as the host reads it; `G.CMD` reads 0 (20_memory.md R62). -/
def readGlobal (s : State) (r : GlobalReg) : Word :=
  match r with
  | .config => configWord s.build
  | .status => statusWord s
  | .cmd => 0x00000000#32
  | .argT => s.argT
  | .argDt => s.argDt
  | .argValue => s.argValue
  | .argRgbb => s.argRgbb
  | .result => s.result
  | .ledBrightness => ledBrightnessWord s

/-- The value of a channel register as the host reads it (20_memory.md R57, R62). -/
def readChannel (ch : Channel) (r : ChannelReg) : Word :=
  match r with
  | .amplitude => ch.params.amplitude
  | .frequency => ch.params.frequency
  | .phase => ch.params.phase
  | .offset => ch.params.offset
  | .pdt => ch.params.pdt
  | .shapeMode => shapeModeWord ch.params
  | .ctrl => ctrlWord ch
  | .step => ch.step
  | .time => ch.time
  | .cache => ch.cache

/-- What a legal read of a target returns (20_memory.md R59 to R62). -/
def readTarget (s : State) (n : AccessSize) (t : Target) : PortData :=
  match t with
  | .globalReg r => .word (readGlobal s r)
  | .channelReg j r => .word (readChannel (s.chan j) r)
  | .frame k => frameData s k n
  | .raw j i => .word ((s.chan j).rawAt i)
  | .samples j i => .word ((s.chan j).sampleAt i)
  | .mask j i => .word (0#31 ++ BitVec.ofBool ((s.chan j).maskAt i))
  | .empty => zeroData n

/-- `MemRead(a, n)` (20_memory.md R58 to R64). -/
def busRead (s : State) (a : Addr) (n : AccessSize) : PortData :=
  if readLegal a n then readTarget s n (targetOf s.build a) else zeroData n

/-! ### Writes -/

/-- A command word written to `G.CMD`: its command, whole, or BADCMD (10_state.md R39,
30_encoding.md R77, R78). -/
def runCommand (w : Word) (s : State) : Host.Outcome State Fault Refusal :=
  match decode w with
  | .ok i => exec i s
  | .error _ => .next (flagBadCommand s)

/-- A legal write of a global register; a read-only one ignores it (20_memory.md R62). -/
def writeGlobal (r : GlobalReg) (w : Word) (s : State) : Host.Outcome State Fault Refusal :=
  match r with
  | .config => .next s
  | .status => .next (writeStatus s w)
  | .cmd => runCommand w s
  | .argT => .next (s.setArgT w)
  | .argDt => .next (s.setArgDt w)
  | .argValue => .next (s.setArgValue w)
  | .argRgbb => .next (s.setArgRgbb w)
  | .result => .next s
  | .ledBrightness => .next (s.setLedBrightness (w.extractLsb' 0 5))

/-- A legal write of a channel register: every pattern is stored unchanged (10_state.md R28, R31, R46),
but for SHAPE_MODE and CTRL; TIME and CACHE ignore it (R32, R33). -/
def writeChannel (r : ChannelReg) (w : Word) (ch : Channel) : Channel :=
  match r with
  | .amplitude => ch.setParams { ch.params with amplitude := w }
  | .frequency => ch.setParams { ch.params with frequency := w }
  | .phase => ch.setParams { ch.params with phase := w }
  | .offset => ch.setParams { ch.params with offset := w }
  | .pdt => ch.setParams { ch.params with pdt := w }
  | .shapeMode => ch.setParams (writeShapeMode ch.params w)
  | .ctrl => writeCtrl ch w
  | .step => ch.setStep w
  | .time => ch
  | .cache => ch

/-- What a legal write to a target does; an empty address ignores it (20_memory.md R59). -/
def writeTarget (t : Target) (w : Word) (s : State) : Host.Outcome State Fault Refusal :=
  match t with
  | .globalReg r => writeGlobal r w s
  | .channelReg j r => .next (s.setChan j (writeChannel r w (s.chan j)))
  | .frame _ => .next s
  | .raw _ _ => .next s
  | .samples _ _ => .next s
  | .mask _ _ => .next s
  | .empty => .next s

/-- The size of a value on the port. -/
def dataSize (v : PortData) : AccessSize :=
  match v with
  | .byte _ => .byte
  | .half _ => .half
  | .word _ => .word

/-- `MemWrite(a, n, v)`: an illegal write changes nothing (20_memory.md R58, R59, R62). -/
def busWrite (a : Addr) (v : PortData) (s : State) : Host.Outcome State Fault Refusal :=
  match v with
  | .byte _ => .next s
  | .half _ => .next s
  | .word w => if writeLegal a .word then writeTarget (targetOf s.build a) w s else .next s

/-! ### One transaction -/

/-- The address of `G.CMD` (20_memory.md R56). -/
def cmdAddr : Addr := 0x000008#24

/-- The reset input asserted and released: every state item takes its reset value
(70_reset_and_hazards.md R149). The host's later transactions are the host's and stay. -/
def resetPulse (s : State) : State := (State.resetOf s.build).setPort s.pending s.reply

/-- One event of the host, the port's answer left in `reply`. -/
def perform (e : HostEvent) (s : State) : Host.Outcome State Fault Refusal :=
  match e with
  | .read a n => .next (s.setPort s.pending (some (busRead s a n)))
  | .write a v => busWrite a v s
  | .reset => .next (resetPulse s)

/-- One step: the host's next event, taken off the queue; with none waiting the block is idle and
holds its state (00_scope.md R22, 60_exceptions.md R148). -/
def stepBody (s : State) : Host.Outcome State Fault Refusal :=
  match s.pending with
  | [] => .next s
  | e :: rest => perform e (s.setPort rest none)

/-- The host issues one more event before those waiting. -/
def issueFirst (e : HostEvent) (s : State) : State := s.setPort (e :: s.pending) s.reply

end Sys2Proof.Machine
end

