-- ==== Sys2Proof/Machine/Step.lean ====
section
/-!
DEFINITION. The step of the machine, one host-port transaction (00_scope.md R22), and how a command is
placed where the next step takes it.
-/

namespace Sys2Proof.Machine

/-- One step of the DSCE. It ends in a next state, a fault or a refusal; the DSCE has only the first
(60_exceptions.md R135). -/
def step (s : State) : Host.Outcome State Fault Refusal := stepBody s

/-- `s` with the command word of `nbits` bits `w` as the host's next transaction, a 32-bit write to
`G.CMD` (10_state.md R39, 20_memory.md R70): the DSCE fetches no instruction, so this is where a
command comes from. -/
def State.withFetchWord (s : State) (nbits w : Nat) : State :=
  issueFirst (.write cmdAddr (.word (BitVec.ofNat 32 (w % 2 ^ nbits)))) s

end Sys2Proof.Machine
end

