-- ==== Sys2Proof/Machine/Assembler.lean ====
section
/-!
DEFINITION. The statements and pseudo-instructions a host program is written in (30_encoding.md R85,
R86), each as the host-port transactions it stands for.
-/

namespace Sys2Proof.Machine

/-! ### Register names and values (30_encoding.md R85) -/

/-- The offset of a global register (20_memory.md R56). -/
def globalOffset (r : GlobalReg) : Nat :=
  match r with
  | .config => 0x000
  | .status => 0x004
  | .cmd => 0x008
  | .argT => 0x00C
  | .argDt => 0x010
  | .argValue => 0x014
  | .argRgbb => 0x018
  | .result => 0x01C
  | .ledBrightness => 0x020

/-- The offset of a channel register in its channel's window (20_memory.md R57). -/
def channelOffset (r : ChannelReg) : Nat :=
  match r with
  | .amplitude => 0x00
  | .frequency => 0x04
  | .phase => 0x08
  | .offset => 0x0C
  | .pdt => 0x10
  | .shapeMode => 0x14
  | .ctrl => 0x18
  | .step => 0x1C
  | .time => 0x20
  | .cache => 0x24

/-- `<reg>`: a register name or a 24-bit address. -/
inductive RegName where
  /-- A name of 20_memory.md R56. -/
  | global (r : GlobalReg)
  /-- A name of 20_memory.md R57, of channel `j`. -/
  | channel (j : Nat) (r : ChannelReg)
  /-- An address. -/
  | address (a : Addr)
  deriving DecidableEq, Repr

/-- The address a `<reg>` names (20_memory.md R55 to R57). -/
def regAddr (r : RegName) : Addr :=
  match r with
  | .global g => BitVec.ofNat 24 (globalOffset g)
  | .channel j c => BitVec.ofNat 24 (0x001000 + 0x100 * j + channelOffset c)
  | .address a => a

/-- `<value>`: a hex integer, or `f:<decimal>` as a sign, the digits without the point, and how many
of them stand after it. -/
inductive Value where
  /-- A hex integer. -/
  | hex (w : Word)
  /-- `f:` and a decimal. -/
  | decimal (negative : Bool) (digits places : Nat)
  deriving DecidableEq, Repr

/-- The word of a `<value>`: a decimal is the nearest binary32, ties to even. -/
def valueWord (v : Value) : Word :=
  match v with
  | .hex w => w
  | .decimal s digits places => roundUnits s (digits * 2 ^ 149) (10 ^ places)

/-! ### Statements (30_encoding.md R85) -/

/-- One statement. -/
inductive Statement where
  /-- A command's mnemonic and operands. -/
  | command (i : Instr)
  /-- `WR <reg>, <value>`. -/
  | wr (r : RegName) (v : Value)
  /-- `RD <reg|addr>[.b|.h|.w]`. -/
  | rd (r : RegName) (n : AccessSize)
  deriving DecidableEq, Repr

/-- The transaction of a statement; a command is a `WR CMD` of its word. -/
def statementEvent (st : Statement) : HostEvent :=
  match st with
  | .command i => .write cmdAddr (.word (encode i))
  | .wr r v => .write (regAddr r) (.word (valueWord v))
  | .rd r n => .read (regAddr r) n

/-! ### Pseudo-instructions (30_encoding.md R86) -/

/-- What a pseudo-instruction expands to: statements, and the `RD CHj.CTRL` giving `x` with the
`WR CHj.CTRL, (x & keep) | set` after it. -/
inductive HostAction where
  /-- A statement. -/
  | statement (st : Statement)
  /-- The read and the write of a control register. -/
  | updateCtrl (j : Nat) (keep set : Word)
  deriving DecidableEq, Repr

/-- The pseudo-instructions. -/
inductive Pseudo where
  /-- `SETPARAMS c<j>, a, f, p, o, dt, shape, mode`. -/
  | setParams (j : Nat) (a f p o dt : Value) (shape mode : Nat)
  /-- `ENABLE c<j>, b`. -/
  | enable (j : Nat) (b : Bool)
  /-- `TIMEADV c<j>, b`. -/
  | timeAdv (j : Nat) (b : Bool)
  /-- `SETSTEP c<j>, v`. -/
  | setStep (j : Nat) (v : Value)
  /-- `SETARGS t, dt`. -/
  | setArgs (t dt : Value)
  /-- `TICK enc, end, c<j1>, ..., c<jk>`. -/
  | tick (e : Encoder) (d : ByteOrder) (channels : List Nat)
  /-- `ACKBAD`. -/
  | ackBad
  deriving DecidableEq, Repr

/-- `WR CHj.r, v`. -/
def wrChannel (j : Nat) (r : ChannelReg) (v : Value) : HostAction :=
  .statement (.wr (.channel j r) v)

/-- `WR r, v`. -/
def wrGlobal (r : GlobalReg) (v : Value) : HostAction := .statement (.wr (.global r) v)

/-- A command statement. -/
def doCommand (i : Instr) : HostAction := .statement (.command i)

/-- The expansion column of 30_encoding.md R86. -/
def expandPseudo (p : Pseudo) : List HostAction :=
  match p with
  | .setParams j a f ph o dt shape mode =>
    [wrChannel j .amplitude a, wrChannel j .frequency f, wrChannel j .phase ph,
      wrChannel j .offset o, wrChannel j .pdt dt,
      wrChannel j .shapeMode (.hex (BitVec.ofNat 32 mode <<< 8 ||| BitVec.ofNat 32 shape))]
  | .enable j b => [.updateCtrl j 0x2#32 ((BitVec.ofBool b).setWidth 32)]
  | .timeAdv j b => [.updateCtrl j 0x1#32 ((BitVec.ofBool b).setWidth 32 <<< 1)]
  | .setStep j v => [wrChannel j .step v]
  | .setArgs t dt => [wrGlobal .argT t, wrGlobal .argDt dt]
  | .tick e d cs =>
    [doCommand .update, doCommand .clear] ++ cs.map (fun c => doCommand (.map c e)) ++
      [doCommand (.finalize d)]
  | .ackBad => [wrGlobal .status (.hex 0x1#32)]

/-! ### Running a host program -/

/-- Go on with `f` when the outcome is a next state. -/
def andThen (o : Host.Outcome State Fault Refusal) (f : State → Host.Outcome State Fault Refusal) :
    Host.Outcome State Fault Refusal :=
  match o with
  | .next s => f s
  | .fault r => .fault r
  | .refused r => .refused r

/-- The host issues one event, and the block takes it in one step. -/
def transact (e : HostEvent) (s : State) : Host.Outcome State Fault Refusal := step (issueFirst e s)

/-- The word the port answered, 0 if it answered none. -/
def replyWord (s : State) : Word :=
  match s.reply with
  | some (.word w) => w
  | _ => 0x00000000#32

/-- Run one action of the host. -/
def runAction (x : HostAction) (s : State) : Host.Outcome State Fault Refusal :=
  match x with
  | .statement st => transact (statementEvent st) s
  | .updateCtrl j keep set =>
    andThen (transact (.read (regAddr (.channel j .ctrl)) .word) s) fun s1 =>
      transact (.write (regAddr (.channel j .ctrl)) (.word (replyWord s1 &&& keep ||| set))) s1

/-- Run a host program, one action after another. -/
def runActions (xs : List HostAction) (s : State) : Host.Outcome State Fault Refusal :=
  match xs with
  | [] => .next s
  | x :: rest => andThen (runAction x s) (runActions rest)

/-- Run a pseudo-instruction (30_encoding.md R86). -/
def runPseudo (p : Pseudo) (s : State) : Host.Outcome State Fault Refusal :=
  runActions (expandPseudo p) s

end Sys2Proof.Machine
end

