-- ==== Sys2Proof/Safety.lean ====
section
/-!
DEFINITION. What claims about a DSCE are stated in: the sizes the spec fixes (10_state.md R52), a run
that does not stop (60_exceptions.md R135), and the parts of the state a command leaves alone.
-/

namespace Sys2Proof.Machine

/-- Every per-channel array has exactly POINTS elements (10_state.md R52). -/
def Channel.sized (points : Nat) (ch : Channel) : Bool :=
  decide (ch.samples.length = points) && decide (ch.mask.length = points) &&
    decide (ch.raw.length = points)

/-- The sizes of R52: there are exactly CHANNELS channels, `MAPPED` has exactly POINTS words, and
every per-channel array has exactly POINTS elements. -/
def State.sized (s : State) : Bool :=
  decide (s.channels.length = s.build.channels) && decide (s.mapped.length = s.build.points) &&
    s.channels.all (Channel.sized s.build.points)

/-- The invariant of the machine: the build meets the constraints of 00_scope.md R5, R6, R8, R10 and
R11, and the sizes are those of 10_state.md R52. -/
def State.inv (s : State) : Bool := s.build.wf && s.sized

/-- `State.inv` as a proposition. -/
abbrev State.Inv (s : State) : Prop := s.inv = true

/-- The buffers in the one form the sizes allow; the DSCE has no memory beside them (log entry 8). -/
abbrev Memory.wf (s : State) : Prop := s.sized = true

/-- The outcome is a next state. -/
def Completes (o : Host.Outcome State Fault Refusal) : Prop := ∃ t, o = .next t

/-! ### What a whole evaluation of a channel yields (40_waveform.md R95, R98, R104) -/

/-- `RNG[j]` before the evaluation of index `i` in an evaluation of every index, none of them cached:
one draw for each Noise evaluation before it (40_waveform.md R104). -/
def rngBefore (p : Params) (rng : Nat) (i : Nat) : Nat := (evalRng p)^[i] rng

/-- The sample at index `i` of an evaluation of every index: the index-0 value where the channel
caches, else the shape's value at its own index (40_waveform.md R95, R106). -/
def sampleValue (p : Params) (rng : Nat) (t dt : F32) (i : Nat) : F32 :=
  if caching p then evalShape p rng t dt 0 else evalShape p (rngBefore p rng i) t dt i

/-- The samples of an evaluation of every index. -/
def sampleRow (points : Nat) (p : Params) (rng : Nat) (t dt : F32) : List F32 :=
  (List.range points).map (sampleValue p rng t dt)

/-- `RNG[j]` after an evaluation of every index: one evaluation where the channel caches, POINTS where
it does not (40_waveform.md R104). -/
def rngAfter (points : Nat) (p : Params) (rng : Nat) : Nat :=
  rngBefore p rng (if caching p then 1 else points)

/-- The channel after an evaluation of every index at time `t` and step `dt`. -/
def generated (points : Nat) (ch : Channel) (t dt : F32) : Channel :=
  { ch with
    samples := sampleRow points ch.params ch.rng t dt
    cache := evalShape ch.params ch.rng t dt 0
    rng := rngAfter points ch.params ch.rng }

/-- The channel after one UPDATE (41_engine.md R109). -/
def ticked (points : Nat) (ch : Channel) : Channel :=
  { generated points ch ch.time ch.step with
    raw := sampleRow points ch.params ch.rng ch.time ch.step
    time := if ch.tadv then fadd ch.time ch.step else ch.time }

/-! ### States that differ in one kind of register only -/

/-- The state with both STATUS flags put to 0. -/
def forgetFlags (s : State) : State := { s with badcmd := false, notfound := false }

/-- The state with every `CH[j].PDT` put to 0. -/
def forgetPdt (s : State) : State :=
  { s with channels := s.channels.map fun ch => { ch with params := { ch.params with pdt := posZero } } }

/-- The state with every exclusion flag forgotten. -/
def forgetMasks (s : State) : State :=
  { s with channels := s.channels.map fun ch => { ch with mask := [] } }

/-- The state with every `CH[j].EN` put to 0. -/
def forgetEnables (s : State) : State :=
  { s with channels := s.channels.map fun ch => { ch with en := false } }

/-- Two states that `forget` makes equal lead, by the command, to next states that it makes equal: the
command reads nothing that it forgets, but to keep it. -/
def Blind (forget : State → State) (i : Instr) : Prop :=
  ∀ s1 s2, forget s1 = forget s2 →
    ∃ t1 t2, exec i s1 = .next t1 ∧ exec i s2 = .next t2 ∧ forget t1 = forget t2

end Sys2Proof.Machine
end

