-- ==== Sys2Proof/Certificates/Slice0/Obligations.lean ====
section
/-!
DEFINITION. The statements about the model, for the provers. Each docstring names the rule or the
section of spec/ it formalises. Every witness of hypotheses stands in Tests/Slice0.lean.
-/

open Sys2Proof Sys2Proof.Machine

/-! ### The command word -/

/-- Decoding the word of a well-formed command gives the command, with every operand at every value
its field admits (30_encoding.md section 1 and 2). -/
def Obligations.DecodeOfEncodeIsTheCommand : Prop :=
  ∀ i : Instr, i.WellFormed → decode (encode i) = .ok i

/-- A word that decodes is the word of the command it decodes to, which is well formed: no bit of a
command word is dropped (30_encoding.md R84 and section 1). -/
def Obligations.EncodeOfDecodeIsTheWord : Prop :=
  ∀ (w : Word) (i : Instr), decode w = .ok i → encode i = w ∧ i.WellFormed

/-- The decoder accepts exactly the words that match one row of the opcode map, and the row is the
command's (30_encoding.md section 2, the rows and the sentence under them). -/
def Obligations.DecodeAcceptsExactlyTheOpcodeRows : Prop :=
  (∀ w : Word, (∃ i, decode w = .ok i) ↔ ∃! r, r ∈ opRows ∧ matchesRow w r = true) ∧
    ∀ (w : Word) (i : Instr), decode w = .ok i → opRow i ∈ opRows ∧ matchesRow w (opRow i) = true

/-- Words of every family, written out from the table, decode to their commands (30_encoding.md
section 2; 95_test_vectors.md). -/
def Obligations.WordsOfTheTableDecode : Prop :=
  decode 0x01000000#32 = .ok .update ∧ decode 0x03F10000#32 = .ok (.map 15 .led) ∧
    decode 0x05010000#32 = .ok (.finalize .big) ∧
    decode 0x10F03FFF#32 = .ok (.genUpdatePoint 15 16383) ∧
    decode 0x13000002#32 = .ok (.genMask 0 2) ∧ decode 0x20300000#32 = .ok (.quantize 3) ∧
    decode 0x21000000#32 = .ok .formatLed ∧ decode 0x10008000#32 = .error .mustBeZero ∧
    decode 0x06000000#32 = .error .reservedOpcode

/-! ### The step -/

/-- A step whose transaction is a write of a command word to `G.CMD` is the command's meaning, on the
state with that transaction taken and no value returned (10_state.md section 5, 20_memory.md
section 4). -/
def Obligations.StepRunsTheWrittenCommand : Prop :=
  ∀ (s : State) (w : Word) (i : Instr) (rest : List HostEvent),
    s.pending = .write 0x000008#24 (.word w) :: rest → decode w = .ok i →
      step s = exec i { s with pending := rest, reply := none }

/-- A reserved word sets BADCMD and changes nothing else: a word that matches no row, among them
every word with one of the listed opcodes and every word with an opcode of the table and a one among
its row's zero bits (30_encoding.md R77). -/
def Obligations.ReservedWordSetsBadcmdOnly : Prop :=
  (∀ (s : State) (w : Word) (rest : List HostEvent),
    s.pending = .write 0x000008#24 (.word w) :: rest → (∀ r ∈ opRows, matchesRow w r = false) →
      step s = .next { s with pending := rest, reply := none, badcmd := true }) ∧
    (∀ (w : Word) (op : Nat), op = (w >>> 24).toNat →
      (op = 0x00 ∨ (0x06 ≤ op ∧ op ≤ 0x0F) ∨ (0x14 ≤ op ∧ op ≤ 0x1F) ∨ (0x22 ≤ op ∧ op ≤ 0xFF)) →
        ∀ r ∈ opRows, matchesRow w r = false) ∧
    ∀ (w : Word), ∀ r ∈ opRows, w >>> 24 = r.value >>> 24 → w &&& r.mask &&& 0x00FFFFFF#32 ≠ 0#32 →
      ∀ r' ∈ opRows, matchesRow w r' = false

/-- BADCMD goes from 0 to 1 in exactly the steps that write to `G.CMD` a word that spells no command,
and such a step records nothing else (60_exceptions.md R136). -/
def Obligations.BadcmdIsSetByExactlyOneCause : Prop :=
  ∀ s : State, s.badcmd = false → ∃ t, step s = .next t ∧
    (t.badcmd = true ↔ ∃ w rest, s.pending = .write 0x000008#24 (.word w) :: rest ∧
      ∀ r ∈ opRows, matchesRow w r = false) ∧
    (t.badcmd = true → t = { s with badcmd := true, pending := t.pending, reply := t.reply })

/-- No command, host access or value stops the machine: every step answers a next state
(60_exceptions.md R135). -/
def Obligations.EveryStepAnswersANextState : Prop :=
  (∀ s : State, ∃ t, step s = .next t) ∧ ∀ (i : Instr) (s : State), ∃ t, exec i s = .next t

/-- A read has no side effect, and two reads of one address with no write between them return the
same value (20_memory.md section 2). -/
def Obligations.ReadsAreIdempotent : Prop :=
  ∀ (s : State) (a : Addr) (n : AccessSize) (rest : List HostEvent),
    s.pending = .read a n :: .read a n :: rest → ∃ t u, step s = .next t ∧ step t = .next u ∧
      t.reply = some (busRead s a n) ∧ u.reply = t.reply ∧
      t = { s with pending := .read a n :: rest, reply := t.reply } ∧
      u = { s with pending := rest, reply := t.reply }

/-- A pulse of the reset input gives every state item its reset value, whatever the state was; the
host's later transactions stay (70_reset_and_hazards.md section 1; that the queue stays and the reply
is cleared is the model's, log entries 7 and 9). -/
def Obligations.ResetPulseGivesTheResetState : Prop :=
  ∀ (s : State) (rest : List HostEvent), s.pending = .reset :: rest →
    step s = .next { State.resetOf s.build with pending := rest, reply := none }

/-! ### Reset and the invariant -/

/-- The reset value of every state item, for every build, channel and index (10_state.md R47). -/
def Obligations.ResetValuesAreTheTables : Prop :=
  ∀ b : Build, b.wf = true →
    busRead (State.resetOf b) 0x000000#24 .word =
      .word (BitVec.ofNat 16 b.points ++ 0x00#8 ++ BitVec.ofNat 8 b.channels) ∧
    busRead (State.resetOf b) 0x000004#24 .word = .word 0x00000000#32 ∧
    (State.resetOf b).badcmd = false ∧ (State.resetOf b).notfound = false ∧
    (State.resetOf b).argT = 0x00000000#32 ∧ (State.resetOf b).argDt = 0x00000000#32 ∧
    (State.resetOf b).argValue = 0x00000000#32 ∧ (State.resetOf b).argRgbb = 0x00000000#32 ∧
    (State.resetOf b).result = 0x00000000#32 ∧
    busRead (State.resetOf b) 0x000020#24 .word = .word 0x0000001F#32 ∧
    (∀ i, i < b.points → (State.resetOf b).mapped[i]? = some 0x00000000#32) ∧
    ∀ j, j < b.channels → ∃ ch, (State.resetOf b).channels[j]? = some ch ∧
      b.initParams[j]? = some ch.params ∧ b.initSeed[j]? = some ch.rng ∧
      ch.en = true ∧ ch.tadv = true ∧ ch.step = fdiv 0x3F800000#32 (i2f b.points) ∧
      ch.time = 0x00000000#32 ∧ ch.cache = 0x00000000#32 ∧
      ∀ i, i < b.points → ch.samples[i]? = some 0x00000000#32 ∧ ch.raw[i]? = some 0x00000000#32 ∧
        ch.mask[i]? = some false

/-- The reset state meets the invariant. It is the state of the model's own default build (log entries
1 to 4). -/
def Obligations.ResetMeetsTheInvariant : Prop := State.reset.Inv

/-- The reset state of every build that meets the spec's constraints meets the invariant
(10_state.md section 6, on sizes; 70_reset_and_hazards.md section 1). -/
def Obligations.ResetOfEveryBuildMeetsTheInvariant : Prop :=
  ∀ b : Build, b.wf = true → (State.resetOf b).Inv

/-- Sizes are invariant: every step from a state with the sizes of the build leads to one, and no step
changes the build (10_state.md R52). -/
def Obligations.EveryStepKeepsTheSizes : Prop :=
  ∀ s t : State, s.Inv → step s = .next t → t.Inv ∧ t.build = s.build

/-! ### The host port -/

/-- The legal accesses are those of 20_memory.md R58. -/
def Obligations.LegalAccessesAreTheListedOnes : Prop :=
  (∀ (a : Addr) (n : AccessSize), readLegal a n = true ↔
    (a.toNat < 0x002000 ∧ n = .word ∧ a.toNat % 4 = 0) ∨
    (0x010000 ≤ a.toNat ∧ a.toNat ≤ 0x01FFFF ∧ a.toNat % sizeBytes n = 0) ∨
    (0x100000 ≤ a.toNat ∧ a.toNat ≤ 0x3FFFFF ∧ n = .word ∧ a.toNat % 4 = 0)) ∧
  ∀ (a : Addr) (n : AccessSize), writeLegal a n = true ↔
    (a.toNat < 0x002000 ∧ n = .word ∧ a.toNat % 4 = 0)

/-- An illegal access, or a legal access to an empty address, changes no state, and a read returns 0;
and the empty addresses, of every build, are the global offsets from 0x024 on, the offsets 0x28 to 0xFF
of a channel and the whole window of a channel past the build, the frame window from byte 4*POINTS on,
the elements of a buffer window past the channels or the points, and the unmapped ranges
(20_memory.md R59, and section 1 on populated addresses). -/
def Obligations.IllegalOrEmptyAccessDoesNothing : Prop :=
  (∀ (s : State) (a : Addr) (n : AccessSize) (rest : List HostEvent),
    s.pending = .read a n :: rest → (readLegal a n = false ∨ targetOf s.build a = .empty) →
      step s = .next { s with pending := rest, reply := some (zeroData n) }) ∧
  (∀ (s : State) (a : Addr) (v : PortData) (rest : List HostEvent),
    s.pending = .write a v :: rest →
      (writeLegal a (dataSize v) = false ∨ targetOf s.build a = .empty) →
      step s = .next { s with pending := rest, reply := none }) ∧
  ∀ (b : Build) (a : Addr), (a.toNat % 4 = 0 ∨ 0x010000 ≤ a.toNat) →
    (targetOf b a = .empty ↔
      (0x000024 ≤ a.toNat ∧ a.toNat ≤ 0x000FFF) ∨
      (0x001000 ≤ a.toNat ∧ a.toNat ≤ 0x001FFF ∧
        (0x28 ≤ a.toNat % 0x100 ∨ b.channels ≤ (a.toNat - 0x001000) / 0x100)) ∨
      (0x002000 ≤ a.toNat ∧ a.toNat ≤ 0x00FFFF) ∨
      (0x010000 + 4 * b.points ≤ a.toNat ∧ a.toNat ≤ 0x01FFFF) ∨
      (0x020000 ≤ a.toNat ∧ a.toNat ≤ 0x0FFFFF) ∨
      (0x100000 ≤ a.toNat ∧ a.toNat ≤ 0x3FFFFF ∧
        (b.channels ≤ a.toNat % 0x100000 / 0x10000 ∨ b.points ≤ a.toNat % 0x10000 / 4)) ∨
      0x400000 ≤ a.toNat)

/-- Each register stands at its address, written out, and its name names it there; the registers of a
channel past the build are empty (20_memory.md section 1, the two offset tables). -/
def Obligations.RegisterNamesNameTheirRegisters : Prop :=
  (∀ (b : Build) (r : GlobalReg), targetOf b (regAddr (.global r)) = .globalReg r) ∧
  (∀ (b : Build) (j : Nat) (r : ChannelReg), j < 16 →
    targetOf b (regAddr (.channel j r)) = if j < b.channels then .channelReg j r else .empty) ∧
  (∀ (b : Build), ∀ x ∈ [(GlobalReg.config, 0x000000#24), (.status, 0x000004#24), (.cmd, 0x000008#24),
      (.argT, 0x00000C#24), (.argDt, 0x000010#24), (.argValue, 0x000014#24), (.argRgbb, 0x000018#24),
      (.result, 0x00001C#24), (.ledBrightness, 0x000020#24)],
    regAddr (.global x.1) = x.2 ∧ targetOf b x.2 = .globalReg x.1) ∧
  ∀ (b : Build) (j : Nat), j < 16 →
    ∀ x ∈ [(ChannelReg.amplitude, 0x00), (.frequency, 0x04), (.phase, 0x08), (.offset, 0x0C),
        (.pdt, 0x10), (.shapeMode, 0x14), (.ctrl, 0x18), (.step, 0x1C), (.time, 0x20), (.cache, 0x24)],
      (regAddr (.channel j x.1)).toNat = 0x001000 + 0x100 * j + x.2 ∧
      targetOf b (BitVec.ofNat 24 (0x001000 + 0x100 * j + x.2)) =
        if j < b.channels then .channelReg j x.1 else .empty

/-- The frame window is the byte view of MAPPED, least significant byte first, at every legal size
(20_memory.md R60). -/
def Obligations.FrameWindowIsTheByteView : Prop :=
  ∀ s : State, s.Inv →
    (∀ k, k < 4 * s.build.points → busRead s (BitVec.ofNat 24 (0x010000 + k)) .byte =
      .byte ((s.mappedAt (k / 4)).extractLsb' (8 * (k % 4)) 8)) ∧
    (∀ k, k < 4 * s.build.points → k % 2 = 0 → busRead s (BitVec.ofNat 24 (0x010000 + k)) .half =
      .half ((s.mappedAt ((k + 1) / 4)).extractLsb' (8 * ((k + 1) % 4)) 8 ++
        (s.mappedAt (k / 4)).extractLsb' (8 * (k % 4)) 8)) ∧
    ∀ i, i < s.build.points →
      busRead s (BitVec.ofNat 24 (0x010000 + 4 * i)) .word = .word (s.mappedAt i)

/-- The RAW, SAMPLES and MASK windows return their elements (20_memory.md R61). -/
def Obligations.BufferWindowsReturnTheirElements : Prop :=
  ∀ (s : State) (j i : Nat), s.Inv → j < s.build.channels → i < s.build.points →
    busRead s (BitVec.ofNat 24 (0x100000 + 0x10000 * j + 4 * i)) .word = .word ((s.chan j).rawAt i) ∧
    busRead s (BitVec.ofNat 24 (0x200000 + 0x10000 * j + 4 * i)) .word =
      .word ((s.chan j).sampleAt i) ∧
    busRead s (BitVec.ofNat 24 (0x300000 + 0x10000 * j + 4 * i)) .word =
      .word (if (s.chan j).maskAt i then 1#32 else 0#32)

/-- A host write to an argument register stores the word unchanged, and nothing else changes; a write
to `G.LED_BRIGHTNESS` stores bits 4..0; a host read of an argument register returns it; and a read of
`G.CMD` returns 0 (10_state.md section 5, 20_memory.md section 2). -/
def Obligations.GlobalRegisterWritesStore : Prop :=
  (∀ (s : State) (w : Word),
    transact (.write 0x00000C#24 (.word w)) s = .next { s with argT := w, reply := none } ∧
    transact (.write 0x000010#24 (.word w)) s = .next { s with argDt := w, reply := none } ∧
    transact (.write 0x000014#24 (.word w)) s = .next { s with argValue := w, reply := none } ∧
    transact (.write 0x000018#24 (.word w)) s = .next { s with argRgbb := w, reply := none } ∧
    transact (.write 0x000020#24 (.word w)) s =
      .next { s with ledBrightness := w.setWidth 5, reply := none } ∧
    busRead { s with ledBrightness := w.setWidth 5 } 0x000020#24 .word = .word (w &&& 0x1F#32)) ∧
  ∀ s : State,
    busRead s 0x000008#24 .word = .word 0x00000000#32 ∧
    busRead s 0x00000C#24 .word = .word s.argT ∧
    busRead s 0x000010#24 .word = .word s.argDt ∧
    busRead s 0x000014#24 .word = .word s.argValue ∧
    busRead s 0x000018#24 .word = .word s.argRgbb ∧
    busRead s 0x000020#24 .word = .word (0#27 ++ s.ledBrightness)

/-- `G.CONFIG` holds POINTS in bits 31..16 and CHANNELS in bits 7..0, bits 15..8 read 0, and writes
are ignored (10_state.md R26). -/
def Obligations.ConfigHoldsTheSizes : Prop :=
  ∀ s : State, s.Inv → ∃ c : Word, busRead s 0x000000#24 .word = .word c ∧
    (c >>> 16).toNat = s.build.points ∧ (c.extractLsb' 8 8) = 0#8 ∧
    (c.extractLsb' 0 8).toNat = s.build.channels ∧
    ∀ w, transact (.write 0x000000#24 (.word w)) s = .next { s with reply := none }

/-- `G.STATUS` reads BADCMD in bit 0 and NOTFOUND in bit 1; a write with bit 0 set clears BADCMD, any
other leaves it, and none changes anything else (10_state.md section 2, on `G.STATUS`). -/
def Obligations.StatusIsWriteOneToClear : Prop :=
  ∀ s : State,
    busRead s 0x000004#24 .word =
      .word ((if s.badcmd then 1#32 else 0#32) ||| (if s.notfound then 2#32 else 0#32)) ∧
    ∀ w : Word, transact (.write 0x000004#24 (.word w)) s =
      .next { s with badcmd := s.badcmd && !w.getLsbD 0, reply := none }

/-- `CH[j].SHAPE_MODE`: a write of a legal code stores it, of 6 or 7 leaves SHAPE unchanged, and stores
MODE in each case; it reads back with every other bit 0; and its reset value is that of
`INIT_PARAMS[j]` (10_state.md R29). -/
def Obligations.ShapeModeIsWriteAnyReadLegal : Prop :=
  [Shape.sine, .square, .triangle, .sawtooth, .noise, .bounce].map shapeCode = [0, 1, 2, 3, 4, 5] ∧
  (∀ (s : State) (j : Nat) (w : Word), s.Inv → j < s.build.channels →
    ∃ p : Params,
      transact (.write (regAddr (.channel j .shapeMode)) (.word w)) s =
        .next { s with channels := s.channels.set j { s.chan j with params := p }, reply := none } ∧
      p = { (s.chan j).params with shape := p.shape, mode := p.mode } ∧
      (w.toNat % 8 ≤ 5 → (shapeCode p.shape).toNat = w.toNat % 8) ∧
      (6 ≤ w.toNat % 8 → p.shape = (s.chan j).params.shape) ∧
      (p.mode = .inPlace ↔ w.getLsbD 8 = true)) ∧
  (∀ (s : State) (j : Nat), s.Inv → j < s.build.channels →
    ∃ v : Word, busRead s (regAddr (.channel j .shapeMode)) .word = .word v ∧
      v.toNat = (shapeCode (s.chan j).params.shape).toNat +
        (if (s.chan j).params.mode = .inPlace then 256 else 0)) ∧
  ∀ (b : Build) (j : Nat) (p : Params), b.wf = true → b.initParams[j]? = some p →
    ((State.resetOf b).chan j).params = p

/-- `CH[j].CTRL` holds EN in bit 0 and TADV in bit 1 and nothing else, and a write changes nothing else
(10_state.md section 3, on `CH[j].CTRL`). -/
def Obligations.CtrlHoldsEnableAndTimeAdvance : Prop :=
  ∀ (s : State) (j : Nat) (w : Word), s.Inv → j < s.build.channels →
    busRead s (regAddr (.channel j .ctrl)) .word =
      .word ((if (s.chan j).en then 1#32 else 0#32) ||| (if (s.chan j).tadv then 2#32 else 0#32)) ∧
    transact (.write (regAddr (.channel j .ctrl)) (.word w)) s =
      .next { s with
        channels := s.channels.set j { s.chan j with en := w.getLsbD 0, tadv := w.getLsbD 1 }
        reply := none }

/-- A host read of a float register of a channel returns it, TIME and CACHE among them; a write of
every pattern is stored unchanged, NaN payloads included, and changes nothing else; and TIME and CACHE
ignore writes (10_state.md sections 3 and 6, 20_memory.md section 2). -/
def Obligations.ChannelFloatRegistersStoreEveryPattern : Prop :=
  ∀ (s : State) (j : Nat) (w : Word), s.Inv → j < s.build.channels →
    (∀ x ∈ [(ChannelReg.amplitude, (s.chan j).params.amplitude),
        (.frequency, (s.chan j).params.frequency), (.phase, (s.chan j).params.phase),
        (.offset, (s.chan j).params.offset), (.pdt, (s.chan j).params.pdt), (.step, (s.chan j).step),
        (.time, (s.chan j).time), (.cache, (s.chan j).cache)],
      busRead s (regAddr (.channel j x.1)) .word = .word x.2) ∧
    (∀ r ∈ [ChannelReg.amplitude, .frequency, .phase, .offset, .pdt, .step],
      ∃ t, transact (.write (regAddr (.channel j r)) (.word w)) s = .next t ∧
        busRead t (regAddr (.channel j r)) .word = .word w ∧
        (∀ r', r' ≠ r → readChannel (t.chan j) r' = readChannel (s.chan j) r') ∧
        t = { s with channels := s.channels.set j (t.chan j), reply := none } ∧
        (t.chan j).samples = (s.chan j).samples ∧ (t.chan j).raw = (s.chan j).raw ∧
        (t.chan j).mask = (s.chan j).mask ∧ (t.chan j).rng = (s.chan j).rng) ∧
    ∀ r ∈ [ChannelReg.time, .cache],
      transact (.write (regAddr (.channel j r)) (.word w)) s = .next { s with reply := none }

/-- The window of a channel outside the build holds no state: reads return 0 and writes are ignored
(10_state.md R45). -/
def Obligations.AbsentChannelWindowsAreEmpty : Prop :=
  ∀ (s : State) (j off : Nat), s.Inv → s.build.channels ≤ j → j ≤ 15 → off < 0x100 →
    (∀ n, busRead s (BitVec.ofNat 24 (0x001000 + 0x100 * j + off)) n = zeroData n) ∧
    ∀ v, transact (.write (BitVec.ofNat 24 (0x001000 + 0x100 * j + off)) v) s =
      .next { s with reply := none }

/-! ### The waveform evaluator -/

/-- An evaluation with SHAPE Sine at time `t`, step `dt` and index `i` is the Sine formula at theta;
infinite or NaN theta gives the canonical NaN; at theta `+0.0` the value is the offset, for a finite
amplitude and an offset that is neither NaN nor `-0.0`, and the canonical NaN for an infinite amplitude;
and with amplitude 1.0 and offset +0.0 it is within 1e-5 of the exact sine of a finite theta
(40_waveform.md section 1, phase, Sine and dispatch; 95_test_vectors.md L1-1). -/
def Obligations.UnitSineIsWithinTolerance : Prop :=
  ∀ (p : Params) (rng : Nat) (t dt pt theta : F32) (i : Nat), p.shape = .sine →
    pt = fadd t (fmul (i2f i) dt) →
    theta = fadd (fmul (fmul 0x40C90FDB#32 p.frequency) pt) p.phase →
      evalShape p rng t dt i = fadd p.offset (fmul p.amplitude (Config.sinUnit.apply theta)) ∧
      (isFinite theta = false → evalShape p rng t dt i = 0x7FC00000#32) ∧
      (theta = 0x00000000#32 → isFinite p.amplitude = true → isNaN p.offset = false →
        p.offset ≠ 0x80000000#32 → evalShape p rng t dt i = p.offset) ∧
      (theta = 0x00000000#32 → isInf p.amplitude = true →
        evalShape p rng t dt i = 0x7FC00000#32) ∧
      (p.amplitude = 0x3F800000#32 → p.offset = 0x00000000#32 → isFinite theta = true →
        isFinite (evalShape p rng t dt i) = true ∧
        |((ratValue (evalShape p rng t dt i) : ℚ) : ℝ) - Real.sin (ratValue theta)| ≤ 1 / 100000)

/-- An evaluation with SHAPE Square at time `t`, step `dt` and index `i`, whose product of amplitude
and SIN of theta is no NaN, depends on SIN only through the sign of the exact sine, but where the
product is a zero: it is the offset plus or minus 1.0 by that sign and the amplitude's
(40_waveform.md section 1, phase, Square and dispatch). -/
def Obligations.SquareFollowsTheExactSine : Prop :=
  ∀ (p : Params) (rng : Nat) (t dt pt theta : F32) (i : Nat), p.shape = .square →
    pt = fadd t (fmul (i2f i) dt) →
    theta = fadd (fmul (fmul 0x40C90FDB#32 p.frequency) pt) p.phase →
    isFinite theta = true → isNaN (fmul p.amplitude (Config.sinUnit.apply theta)) = false →
      (isZero (fmul p.amplitude (Config.sinUnit.apply theta)) = true →
        evalShape p rng t dt i = fadd p.offset 0x3F800000#32) ∧
      (isZero (fmul p.amplitude (Config.sinUnit.apply theta)) = false →
        (((signOf p.amplitude = false ↔ 0 ≤ Real.sin (ratValue theta)) →
            evalShape p rng t dt i = fadd p.offset 0x3F800000#32) ∧
          (¬(signOf p.amplitude = false ↔ 0 ≤ Real.sin (ratValue theta)) →
            evalShape p rng t dt i = fadd p.offset 0xBF800000#32)))

/-- An evaluation with SHAPE Square takes the "else" branch, the offset minus 1.0, for a NaN amplitude,
for an infinite or NaN theta, and for an infinite amplitude where SIN of theta is a zero
(40_waveform.md section 1, phase, Square and dispatch). -/
def Obligations.SquareOfANanIsOffsetMinusOne : Prop :=
  ∀ (p : Params) (rng : Nat) (t dt pt theta : F32) (i : Nat), p.shape = .square →
    pt = fadd t (fmul (i2f i) dt) →
    theta = fadd (fmul (fmul 0x40C90FDB#32 p.frequency) pt) p.phase →
    (isNaN p.amplitude = true ∨ isFinite theta = false ∨
      (isInf p.amplitude = true ∧ isZero (Config.sinUnit.apply theta) = true)) →
      evalShape p rng t dt i = fadd p.offset 0xBF800000#32

/-- An evaluation with SHAPE Triangle at time `t`, step `dt` and index `i` is the Triangle formula at
theta. At a zero theta, for an amplitude whose double is finite, it is exactly the offset, where that is
neither a NaN nor `-0.0`, and a zero for the offset `-0.0`; for an amplitude whose double is not finite
the formula gives the canonical NaN (log entry 19). For a finite theta `ASIN(SIN(theta))` is no NaN, and
neither is the value, for an amplitude whose double is finite and a finite offset. Infinite or NaN theta
gives the canonical NaN (40_waveform.md section 1, phase, Triangle and dispatch). -/
def Obligations.TriangleIsTheOffsetAtZero : Prop :=
  ∀ (p : Params) (rng : Nat) (t dt pt theta : F32) (i : Nat), p.shape = .triangle →
    pt = fadd t (fmul (i2f i) dt) →
    theta = fadd (fmul (fmul 0x40C90FDB#32 p.frequency) pt) p.phase →
      evalShape p rng t dt i = fadd p.offset (fmul (fdiv (fmul 0x40000000#32 p.amplitude) 0x40490FDB#32)
        (Config.asinUnit.apply (Config.sinUnit.apply theta))) ∧
      (isZero theta = true → isFinite (fmul 0x40000000#32 p.amplitude) = true →
        (isNaN p.offset = false → p.offset ≠ 0x80000000#32 → evalShape p rng t dt i = p.offset) ∧
        (p.offset = 0x80000000#32 → isZero (evalShape p rng t dt i) = true)) ∧
      (isZero theta = true → isFinite (fmul 0x40000000#32 p.amplitude) = false →
        evalShape p rng t dt i = 0x7FC00000#32) ∧
      (isFinite theta = true →
        isNaN (Config.asinUnit.apply (Config.sinUnit.apply theta)) = false ∧
        (isFinite (fmul 0x40000000#32 p.amplitude) = true → isFinite p.offset = true →
          isNaN (evalShape p rng t dt i) = false)) ∧
      (isFinite theta = false → evalShape p rng t dt i = 0x7FC00000#32)

/-- An evaluation with SHAPE Sawtooth is the Sawtooth formula at theta, and one with SHAPE Bounce the
Bounce formula at phase_t, for every time, step and index; and they take the values of all 11 rows of the
vector L2-5, theta included, and of all 14 rows of L2-6, at index 0 with every finite step
(40_waveform.md section 1, phase, Sawtooth, Bounce and dispatch; 95_test_vectors.md Part 2). -/
def Obligations.SawtoothAndBounceVectors : Prop :=
  (∀ (p : Params) (rng : Nat) (t dt pt theta : F32) (i : Nat), p.shape = .sawtooth →
    pt = fadd t (fmul (i2f i) dt) →
    theta = fadd (fmul (fmul 0x40C90FDB#32 p.frequency) pt) p.phase →
      evalShape p rng t dt i =
        fsub (fadd p.offset (fdiv (fmul p.amplitude (ffmod theta 0x40C90FDB#32)) 0x40490FDB#32))
          0x3F800000#32) ∧
  (∀ (p : Params) (rng : Nat) (t dt x f : F32) (i : Nat), p.shape = .bounce →
    x = fmul (fadd t (fmul (i2f i) dt)) p.frequency → f = fsub x (ffloor x) →
      evalShape p rng t dt i = fadd p.offset (fmul
        (if flt f 0x3F000000#32 then fmul 0x40000000#32 f
          else fmul 0x40000000#32 (fsub 0x3F800000#32 f))
        (fsub p.amplitude p.offset))) ∧
  (∀ (p : Params) (rng : Nat), p.shape = .sawtooth →
    ∀ r ∈ [ -- amplitude, frequency, phase, offset, t, dt, i, theta, result
      (0x3F800000#32, 0x3F800000#32, 0#32, 0#32, 0#32, 0x3E800000#32, 0, 0x00000000#32, 0xBF800000#32),
      (0x3F800000#32, 0x3F800000#32, 0#32, 0#32, 0#32, 0x3E800000#32, 1, 0x3FC90FDB#32, 0xBF000000#32),
      (0x3F800000#32, 0x3F800000#32, 0#32, 0#32, 0#32, 0x3E800000#32, 2, 0x40490FDB#32, 0x00000000#32),
      (0x3F800000#32, 0x3F800000#32, 0#32, 0#32, 0#32, 0x3E800000#32, 3, 0x4096CBE4#32, 0x3F000000#32),
      (0x3F800000#32, 0x3F800000#32, 0#32, 0#32, 0x3F800000#32, 0x3E800000#32, 0, 0x40C90FDB#32,
        0xBF800000#32),
      (0x3F800000#32, 0x3F800000#32, 0#32, 0#32, 0xBE800000#32, 0x3E800000#32, 0, 0xBFC90FDB#32,
        0xBFC00000#32),
      (0x3F800000#32, 0x3F800000#32, 0#32, 0#32, 0x3FA00000#32, 0x3E800000#32, 0, 0x40FB53D2#32,
        0xBEFFFFFE#32),
      (0x40000000#32, 0x3F800000#32, 0#32, 0#32, 0x3E800000#32, 0x3E800000#32, 0, 0x3FC90FDB#32,
        0x00000000#32),
      (0x3F800000#32, 0x3F800000#32, 0#32, 0x3F000000#32, 0#32, 0x3E800000#32, 1, 0x3FC90FDB#32,
        0x00000000#32),
      (0x3F800000#32, 0x3F800000#32, 0x40490FDB#32, 0#32, 0#32, 0x3E800000#32, 0, 0x40490FDB#32,
        0x00000000#32),
      (0x3F800000#32, 0x7F800000#32, 0#32, 0#32, 0#32, 0x3E800000#32, 1, 0x7F800000#32,
        0x7FC00000#32)],
      match r with
      | (amp, freq, phase, off, t, dt, i, theta, result) =>
        fadd (fmul (fmul 0x40C90FDB#32 freq) (fadd t (fmul (i2f i) dt))) phase = theta ∧
        evalShape { p with amplitude := amp, frequency := freq, phase := phase, offset := off }
          rng t dt i = result) ∧
  ∀ (p : Params) (rng : Nat) (dt : F32), p.shape = .bounce → isFinite dt = true →
    ∀ r ∈ [ -- amplitude, frequency, offset, t, TRI input, result
      (0x3F800000#32, 0x3F800000#32, 0#32, 0x00000000#32, 0x00000000#32, 0x00000000#32),
      (0x3F800000#32, 0x3F800000#32, 0#32, 0x3E800000#32, 0x3E800000#32, 0x3F000000#32),
      (0x3F800000#32, 0x3F800000#32, 0#32, 0x3F000000#32, 0x3F000000#32, 0x3F800000#32),
      (0x3F800000#32, 0x3F800000#32, 0#32, 0x3F400000#32, 0x3F400000#32, 0x3F000000#32),
      (0x3F800000#32, 0x3F800000#32, 0#32, 0x3F800000#32, 0x3F800000#32, 0x00000000#32),
      (0x3F800000#32, 0x3F800000#32, 0#32, 0xBE800000#32, 0xBE800000#32, 0x3F000000#32),
      (0x3F800000#32, 0x3F800000#32, 0#32, 0x3DCCCCCD#32, 0x3DCCCCCD#32, 0x3E4CCCCD#32),
      (0x3F800000#32, 0x3F800000#32, 0#32, 0xAEDBE6FF#32, 0xAEDBE6FF#32, 0x00000000#32),
      (0x3F800000#32, 0x3F800000#32, 0x3E4CCCCD#32, 0x3E800000#32, 0x3E800000#32, 0x3F19999A#32),
      (0x3F800000#32, 0x3F800000#32, 0x3E4CCCCD#32, 0x3F000000#32, 0x3F000000#32, 0x3F800000#32),
      (0x3F800000#32, 0x3F800000#32, 0x3E4CCCCD#32, 0x00000000#32, 0x00000000#32, 0x3E4CCCCD#32),
      (0x3F800000#32, 0x40000000#32, 0#32, 0x3E000000#32, 0x3E800000#32, 0x3F000000#32),
      (0x00000000#32, 0x3F800000#32, 0x3F800000#32, 0x3E99999A#32, 0x3E99999A#32, 0x3ECCCCCC#32),
      (0x3F800000#32, 0x7FC00000#32, 0#32, 0x3E800000#32, 0x7FC00000#32, 0x7FC00000#32)],
      match r with
      | (amp, freq, off, t, x, result) =>
        fmul (fadd t (fmul (i2f 0) dt)) freq = x ∧
        evalShape { p with amplitude := amp, frequency := freq, offset := off } rng t dt 0 = result

/-- A Noise value lies in the half-open interval where that is not empty; else it is the offset, or
the canonical NaN for a NaN offset; the random source advances once either way; and time, step,
index, frequency and phase do not matter (40_waveform.md R93). -/
def Obligations.NoiseStaysInItsInterval : Prop :=
  ∀ (p : Params) (rng : Nat) (t dt : F32) (i : Nat), p.shape = .noise →
    (flt p.offset (fadd p.offset p.amplitude) = true →
      fge (evalShape p rng t dt i) p.offset = true ∧
        flt (evalShape p rng t dt i) (fadd p.offset p.amplitude) = true) ∧
    (flt p.offset (fadd p.offset p.amplitude) = false →
      evalShape p rng t dt i = if isNaN p.offset then 0x7FC00000#32 else p.offset) ∧
    evalRng p rng = Config.noisePrng.advance rng p.offset (fadd p.offset p.amplitude) ∧
    ∀ (freq phase t' dt' : F32) (i' : Nat),
      evalShape { p with frequency := freq, phase := phase } rng t' dt' i' = evalShape p rng t dt i

/-- Only a Noise evaluation advances the random source: an evaluation of every index takes POINTS
draws from a Dynamic Noise channel, one from an InPlace one, and none otherwise
(40_waveform.md section 4, draw accounting). -/
def Obligations.DrawsAreCounted : Prop :=
  ∀ (points : Nat) (ch : Channel) (t dt : F32), 1 ≤ points →
    (updateAll points ch t dt).rng =
      (fun r => Config.noisePrng.advance r ch.params.offset
        (fadd ch.params.offset ch.params.amplitude))^[
          if ch.params.shape = .noise then
            (if ch.params.mode = .inPlace then 1 else points)
          else 0] ch.rng

/-- GEN_UPDATE_POINT on a channel of the build: NOTFOUND is 0, RESULT is the value, and an in-range
index stores the sample, the cache at index 0, and the random source where it evaluated; nothing
else changes (40_waveform.md sections 2 and 3). -/
def Obligations.GenUpdatePointEvaluatesOneSample : Prop :=
  ∀ (s : State) (c i : Nat), s.Inv → c < s.build.channels →
    (s.build.points ≤ i →
      exec (.genUpdatePoint c i) s = .next { s with notfound := false, result := 0x00000000#32 }) ∧
    (i < s.build.points → 0 < i → caching (s.chan c).params = true →
      exec (.genUpdatePoint c i) s = .next { s with
        notfound := false
        result := (s.chan c).cache
        channels := s.channels.set c
          { s.chan c with samples := (s.chan c).samples.set i (s.chan c).cache } }) ∧
    (i < s.build.points → (i = 0 ∨ caching (s.chan c).params = false) →
      exec (.genUpdatePoint c i) s = .next { s with
        notfound := false
        result := evalShape (s.chan c).params (s.chan c).rng s.argT s.argDt i
        channels := s.channels.set c
          { s.chan c with
            samples := (s.chan c).samples.set i
              (evalShape (s.chan c).params (s.chan c).rng s.argT s.argDt i)
            cache := if i = 0 then evalShape (s.chan c).params (s.chan c).rng s.argT s.argDt i
              else (s.chan c).cache
            rng := evalRng (s.chan c).params (s.chan c).rng } })

/-- GEN_UPDATE on a channel of the build evaluates every index in order with the argument registers'
time and step; RESULT, RAW, TIME and everything else stay (40_waveform.md section 3, GEN_UPDATE). -/
def Obligations.GenUpdateEvaluatesEverySample : Prop :=
  ∀ (s : State) (c : Nat), s.Inv → c < s.build.channels →
    exec (.genUpdate c) s = .next { s with
      notfound := false
      channels := s.channels.set c (generated s.build.points (s.chan c) s.argT s.argDt) }

/-- GEN_RESET on a channel of the build zeroes its samples and exclusion flags and nothing else: the
parameters, RNG, CACHE, TIME, CTRL, STEP and RAW stay (40_waveform.md section 3, GEN_RESET). -/
def Obligations.GenResetZeroesSamplesAndMask : Prop :=
  ∀ (s : State) (c : Nat), s.Inv → c < s.build.channels →
    exec (.genReset c) s = .next { s with
      notfound := false
      channels := s.channels.set c
        { s.chan c with
          samples := List.replicate s.build.points 0x00000000#32
          mask := List.replicate s.build.points false } }

/-- GEN_MASK on a channel of the build toggles one exclusion flag and nothing else, and does nothing
past the last point; a second one restores the flag (40_waveform.md section 3, GEN_MASK). -/
def Obligations.GenMaskTogglesOneFlag : Prop :=
  ∀ (s : State) (c i : Nat), s.Inv → c < s.build.channels →
    (i < s.build.points → exec (.genMask c i) s = .next { s with
      notfound := false
      channels := s.channels.set c
        { s.chan c with mask := (s.chan c).mask.set i (!(s.chan c).maskAt i) } }) ∧
    (s.build.points ≤ i → exec (.genMask c i) s = .next { s with notfound := false }) ∧
    andThen (exec (.genMask c i) s) (exec (.genMask c i)) = .next { s with notfound := false }

/-- A GEN_* command on a channel past the build sets NOTFOUND and changes nothing else
(60_exceptions.md section 1, the table's GEN_* row). -/
def Obligations.MissingGeneratorSetsNotfoundOnly : Prop :=
  ∀ (s : State) (c i : Nat), s.build.channels ≤ c →
    exec (.genUpdatePoint c i) s = .next { s with notfound := true } ∧
    exec (.genUpdate c) s = .next { s with notfound := true } ∧
    exec (.genReset c) s = .next { s with notfound := true } ∧
    exec (.genMask c i) s = .next { s with notfound := true }

/-! ### The engine -/

/-- UPDATE evaluates every channel, enabled or not, at its own time and step, keeps RAW and SAMPLES,
and advances the time of those whose TADV is 1; nothing else changes (41_engine.md section 1,
UPDATE). -/
def Obligations.UpdateEvaluatesEveryChannel : Prop :=
  ∀ s : State, s.Inv →
    exec .update s = .next { s with channels := s.channels.map (ticked s.build.points) }

/-- TRESET zeroes every time accumulator and changes nothing else (41_engine.md R110). -/
def Obligations.TresetRewindsEveryClock : Prop :=
  ∀ s : State, s.Inv →
    exec .treset s =
      .next { s with channels := s.channels.map fun ch => { ch with time := 0x00000000#32 } }

/-- MAP of an enabled channel of the build ORs the encoder's word of each RAW element into MAPPED, and
any other MAP changes nothing (41_engine.md section 1, MAP). -/
def Obligations.MapComposesAnEnabledChannel : Prop :=
  ∀ (s : State) (c : Nat) (e : Encoder), s.Inv →
    ((s.build.channels ≤ c ∨ (s.chan c).en = false) → exec (.map c e) s = .next s) ∧
    (c < s.build.channels → (s.chan c).en = true →
      exec (.map c e) s = .next { s with
        mapped := (List.range s.build.points).map fun i => s.mappedAt i |||
          (match e with
          | .lane => encLane s ((s.chan c).rawAt i) c
          | .led => encLed s ((s.chan c).rawAt i) c) })

/-- CLEAR zeroes the packed buffer and changes nothing else (41_engine.md section 1, CLEAR). -/
def Obligations.ClearZeroesThePackedBuffer : Prop :=
  ∀ s : State, s.Inv →
    exec .clear s = .next { s with mapped := List.replicate s.build.points 0x00000000#32 }

/-- FINALIZE stamps the marker into every word and orders its bytes, LITTLE as they are and BIG
swapped, and changes nothing else (41_engine.md section 1, FINALIZE). -/
def Obligations.FinalizeStampsAndOrders : Prop :=
  ∀ s : State, s.Inv →
    exec (.finalize .little) s = .next { s with mapped := s.mapped.map (· ||| 0xE0000000#32) } ∧
    exec (.finalize .big) s = .next { s with
      mapped := s.mapped.map fun m =>
        m.extractLsb' 0 8 ++ m.extractLsb' 8 8 ++ m.extractLsb' 16 8 ++
          (m.extractLsb' 24 8 ||| 0xE0#8) }

/-- What two FINALIZE commands leave, for each pair of byte orders: BIG and BIG each word with both
marker bytes stamped, BIG and LITTLE the swapped word stamped again, LITTLE and BIG what one BIG leaves,
and LITTLE and LITTLE what one LITTLE leaves. BIG and BIG leave what one LITTLE leaves, and BIG and LITTLE
what one BIG leaves, only where the second stamp's bits were 1 already (41_engine.md section 1, FINALIZE
twice). -/
def Obligations.FinalizeTwiceLeavesTheClosedForms : Prop :=
  ∀ s : State, s.Inv →
    andThen (exec (.finalize .big) s) (exec (.finalize .big)) =
      .next { s with mapped := s.mapped.map (· ||| 0xE00000E0#32) } ∧
    andThen (exec (.finalize .big) s) (exec (.finalize .little)) =
      .next { s with
        mapped := s.mapped.map fun m => bswap32 (m ||| 0xE0000000#32) ||| 0xE0000000#32 } ∧
    andThen (exec (.finalize .little) s) (exec (.finalize .big)) = exec (.finalize .big) s ∧
    andThen (exec (.finalize .little) s) (exec (.finalize .little)) = exec (.finalize .little) s ∧
    (andThen (exec (.finalize .big) s) (exec (.finalize .big)) = exec (.finalize .little) s ↔
      ∀ m ∈ s.mapped, m &&& 0xE0#32 = 0xE0#32) ∧
    (andThen (exec (.finalize .big) s) (exec (.finalize .little)) = exec (.finalize .big) s ↔
      ∀ m ∈ s.mapped, m &&& 0xE0#32 = 0xE0#32)

/-- MAP of two channels in either order leaves the same state, whatever the lanes, and MAP twice
leaves what one leaves (41_engine.md section 1, OR-composition laws). -/
def Obligations.MapsCommute : Prop :=
  ∀ (s : State) (a b : Nat) (e f : Encoder), s.Inv →
    andThen (exec (.map a e) s) (exec (.map b f)) = andThen (exec (.map b f) s) (exec (.map a e)) ∧
    andThen (exec (.map a e) s) (exec (.map a e)) = exec (.map a e) s

/-! ### The pixel encoder -/

/-- The code of a NaN is 0; of every other value it is the printed formula, and the clamp lies in the
range, the difference in the span, the quotient in `[0, 1]` and the rescaled value in `[0, 255]`, so the
code is its integer part; the infinities, the two zeros, a difference that reaches the span, and the
values the rule lists for the default range have their codes (42_encoder.md R125, R126). -/
def Obligations.QuantizerStaysInRange : Prop :=
  (∀ (b : Build) (v : F32), isNaN v = true → q8 b v = 0x00#8) ∧
  (∀ (b : Build) (v c : F32), isNaN v = false →
    c = (if flt v b.normMin then b.normMin else if fgt v b.normMax then b.normMax else v) →
      clampNorm b v = c ∧
      rescaled b v = fmul (fdiv (fsub c b.normMin) (fsub b.normMax b.normMin)) 0x437F0000#32 ∧
      q8 b v = trunc8 (rescaled b v)) ∧
  (∀ (b : Build) (v : F32), b.wf = true → isNaN v = false →
    fge (clampNorm b v) b.normMin = true ∧ fge b.normMax (clampNorm b v) = true ∧
      fge (fsub (clampNorm b v) b.normMin) 0x00000000#32 = true ∧
      fge (fsub b.normMax b.normMin) (fsub (clampNorm b v) b.normMin) = true ∧
      fge (fdiv (fsub (clampNorm b v) b.normMin) (fsub b.normMax b.normMin)) 0x00000000#32 = true ∧
      fge 0x3F800000#32 (fdiv (fsub (clampNorm b v) b.normMin) (fsub b.normMax b.normMin)) = true ∧
      fge (rescaled b v) 0x00000000#32 = true ∧ fge 0x437F0000#32 (rescaled b v) = true ∧
      ((q8 b v).toNat : ℤ) = ⌊ratValue (rescaled b v)⌋ ∧
      (fsub (clampNorm b v) b.normMin = fsub b.normMax b.normMin → q8 b v = 0xFF#8)) ∧
  (∀ b : Build, b.wf = true → q8 b 0x7F800000#32 = 0xFF#8 ∧ q8 b 0xFF800000#32 = 0x00#8 ∧
    q8 b b.normMax = 0xFF#8 ∧ q8 b 0x80000000#32 = q8 b 0x00000000#32) ∧
  ∀ b : Build, b.normMin = 0xBF800000#32 → b.normMax = 0x3F800000#32 →
    q8 b 0x00000000#32 = 127#8 ∧ q8 b 0x3F000000#32 = 191#8 ∧ q8 b 0xBF000000#32 = 63#8 ∧
    q8 b 0x3F7D70A4#32 = 253#8 ∧ q8 b 0xBF800000#32 = 0#8 ∧ q8 b 0x3F800000#32 = 255#8 ∧
    q8 b 0x3F7FFFFF#32 = 255#8

/-- QUANTIZE writes to RESULT the code of `G.ARG_VALUE` in byte `c`, zero from lane 4 on, for every
lane number, and changes nothing else (42_encoder.md section 2, QUANTIZE). -/
def Obligations.QuantizeWritesTheLaneCode : Prop :=
  ∀ (s : State) (c : Nat), ∃ r : Word, exec (.quantize c) s = .next { s with result := r } ∧
    (4 ≤ c → r = 0x00000000#32) ∧
    (c < 4 → ∀ k, k < 4 →
      r.extractLsb' (8 * k) 8 = if k = c then q8 s.build s.argValue else 0x00#8)

/-- FORMAT_LED writes to RESULT the marker, the brightness byte's low five bits, and blue, green and
red, and changes nothing else (42_encoder.md section 2, FORMAT_LED). -/
def Obligations.FormatLedWritesTheLedWord : Prop :=
  ∀ s : State, ∃ r : Word, exec .formatLed s = .next { s with result := r } ∧
    r.extractLsb' 29 3 = 0x7#3 ∧ r.extractLsb' 24 5 = s.argRgbb.extractLsb' 24 5 ∧
    r.extractLsb' 16 8 = s.argRgbb.extractLsb' 16 8 ∧ r.extractLsb' 8 8 = s.argRgbb.extractLsb' 8 8 ∧
    r.extractLsb' 0 8 = s.argRgbb.extractLsb' 0 8

/-- The full-LED words of channels 0, 1 and 2 OR into one LED word of the three codes and the
brightness register; from channel 3 on the word is marker and brightness alone; and the byte-lane
words of channels 0, 1 and 2 are its colour bytes without marker and brightness
(42_encoder.md sections 1 and 3). -/
def Obligations.EncodersComposeOneLedWord : Prop :=
  ∀ (s : State) (v0 v1 v2 : F32),
    encLed s v0 0 ||| encLed s v1 1 ||| encLed s v2 2 =
      0x7#3 ++ s.ledBrightness ++ q8 s.build v2 ++ q8 s.build v1 ++ q8 s.build v0 ∧
    encLane s v0 0 ||| encLane s v1 1 ||| encLane s v2 2 =
      0x00#8 ++ q8 s.build v2 ++ q8 s.build v1 ++ q8 s.build v0 ∧
    ∀ v c, 3 ≤ c → encLed s v c = 0x7#3 ++ s.ledBrightness ++ 0x000000#24

/-- The wire format: after CLEAR, MAP of the three enabled channels 0, 1 and 2 through the full-LED
encoder and FINALIZE BIG, the four bytes of each pixel in the frame window are the marker with the
brightness, blue, green and red (41_engine.md section 3, wire format). -/
def Obligations.FrameCarriesTheWireFormat : Prop :=
  ∀ s : State, s.Inv → 3 ≤ s.build.channels →
    (s.chan 0).en = true → (s.chan 1).en = true → (s.chan 2).en = true →
    ∃ t, runActions [doCommand .clear, doCommand (.map 0 .led), doCommand (.map 1 .led),
        doCommand (.map 2 .led), doCommand (.finalize .big)] s = .next t ∧
      ∀ i, i < s.build.points →
        frameByte t (4 * i) = 0x7#3 ++ s.ledBrightness ∧
        frameByte t (4 * i + 1) = q8 s.build ((s.chan 2).rawAt i) ∧
        frameByte t (4 * i + 2) = q8 s.build ((s.chan 1).rawAt i) ∧
        frameByte t (4 * i + 3) = q8 s.build ((s.chan 0).rawAt i)

/-! ### What no command reads or writes -/

/-- No command reads either flag; BADCMD is changed by no command that is spelled, and NOTFOUND only by
the GEN_* commands, which write it (10_state.md R48). -/
def Obligations.FlagsAreReadByNoCommand : Prop :=
  (∀ i, Blind forgetFlags i) ∧
  ∀ (i : Instr) (s : State), ∃ t, exec i s = .next t ∧ t.badcmd = s.badcmd ∧
    t.notfound = (match i with
      | .genUpdatePoint c _ => decide (s.build.channels ≤ c)
      | .genUpdate c => decide (s.build.channels ≤ c)
      | .genReset c => decide (s.build.channels ≤ c)
      | .genMask c _ => decide (s.build.channels ≤ c)
      | .update => s.notfound
      | .treset => s.notfound
      | .map _ _ => s.notfound
      | .clear => s.notfound
      | .finalize _ => s.notfound
      | .quantize _ => s.notfound
      | .formatLed => s.notfound)

/-- The parameter record's `dt` is read by no command (10_state.md section 6, on `CH[j].PDT`). -/
def Obligations.PdtIsReadByNoCommand : Prop := ∀ i, Blind forgetPdt i

/-- The exclusion mask is inert: it changes nothing but itself (40_waveform.md section 2, the last
rule). -/
def Obligations.ExclusionMaskIsInert : Prop := ∀ i, Blind forgetMasks i

/-- EN is read by MAP alone (41_engine.md section 3, the first rule). -/
def Obligations.EnableIsReadByMapAlone : Prop :=
  ∀ i : Instr, (∀ c e, i ≠ .map c e) → Blind forgetEnables i

/-- A generator command changes its own channel alone: the other channels, MAPPED, the argument
registers and `G.LED_BRIGHTNESS` stay, and of its own channel the parameters, EN, TADV, STEP, TIME and
RAW (10_state.md section 6, on ownership; 70_reset_and_hazards.md section 3, on GEN_* and MAP). -/
def Obligations.GeneratorCommandsKeepToTheirGenerator : Prop :=
  ∀ (s : State) (c i : Nat), ∀ x ∈ [Instr.genUpdatePoint c i, .genUpdate c, .genReset c, .genMask c i],
    ∃ t, exec x s = .next t ∧ (∀ j, j ≠ c → t.chan j = s.chan j) ∧
      t = { s with notfound := t.notfound, result := t.result, channels := t.channels } ∧
      (t.chan c).params = (s.chan c).params ∧ (t.chan c).en = (s.chan c).en ∧
      (t.chan c).tadv = (s.chan c).tadv ∧ (t.chan c).step = (s.chan c).step ∧
      (t.chan c).time = (s.chan c).time ∧ (t.chan c).raw = (s.chan c).raw

/-- RESULT is written by GEN_UPDATE_POINT, of a channel of the build, with a binary32 pattern, and by
QUANTIZE and FORMAT_LED with an integer word, and changed by no other command; host writes to it are
ignored, and it resets to 0 (10_state.md R43). -/
def Obligations.ResultIsWrittenByThreeCommands : Prop :=
  (∀ (s : State) (c x : Nat), c < s.build.channels → ∃ t, exec (.genUpdatePoint c x) s = .next t ∧
    t.result = updatePointValue s.build.points (s.chan c) s.argT s.argDt x) ∧
  (∀ (s : State) (c : Nat), ∃ t, exec (.quantize c) s = .next t ∧
    t.result = laneCode s.build s.argValue c) ∧
  (∀ s : State, ∃ t, exec .formatLed s = .next t ∧
    t.result = fmtLed (rgbbRed s.argRgbb) (rgbbGreen s.argRgbb) (rgbbBlue s.argRgbb)
      (rgbbBrightness s.argRgbb)) ∧
  (∀ (i : Instr) (s t : State), exec i s = .next t → t.result ≠ s.result →
    (∃ c x, i = .genUpdatePoint c x) ∨ (∃ c, i = .quantize c) ∨ i = .formatLed) ∧
  (∀ (s : State) (w : Word),
    transact (.write 0x00001C#24 (.word w)) s = .next { s with reply := none } ∧
      busRead s 0x00001C#24 .word = .word s.result) ∧
  ∀ b : Build, (State.resetOf b).result = 0x00000000#32

/-- `set_enabled` and `set_time_advance`: the pseudo-instructions ENABLE and TIMEADV change their own
bit of `CH[j].CTRL` and nothing else of the machine's (41_engine.md section 2). -/
def Obligations.EnableAndTimeadvSetTheirBit : Prop :=
  ∀ (s : State) (j : Nat) (b : Bool), s.Inv → j < s.build.channels →
    runPseudo (.enable j b) s =
      .next { s with channels := s.channels.set j { s.chan j with en := b }, reply := none } ∧
    runPseudo (.timeAdv j b) s =
      .next { s with channels := s.channels.set j { s.chan j with tadv := b }, reply := none }

/-! ### Binary32 arithmetic -/

/-- Addition, multiplication and division of finite values round to nearest: no finite binary32 is
nearer to the exact result than a finite result (00_scope.md section 3, on floats). -/
def Obligations.ArithmeticRoundsToNearest : Prop :=
  ∀ a b c : F32, isFinite a = true → isFinite b = true → isFinite c = true →
    (isFinite (fadd a b) = true →
      |ratValue a + ratValue b - ratValue (fadd a b)| ≤ |ratValue a + ratValue b - ratValue c|) ∧
    (isFinite (fmul a b) = true →
      |ratValue a * ratValue b - ratValue (fmul a b)| ≤ |ratValue a * ratValue b - ratValue c|) ∧
    (isZero b = false → isFinite (fdiv a b) = true →
      |ratValue a / ratValue b - ratValue (fdiv a b)| ≤ |ratValue a / ratValue b - ratValue c|)

/-- `ffmod` is exact: `a` less a whole number of `b`s, the quotient truncated, with the sign of `a`
(00_scope.md section 4, `ffmod`). -/
def Obligations.FmodIsExact : Prop :=
  ∀ a b : F32, isFinite a = true → isFinite b = true → isZero b = false →
    isFinite (ffmod a b) = true ∧ units (ffmod a b) = (units a).tmod (units b) ∧
      signOf (ffmod a b) = signOf a

/-- `ffloor` of a finite value is the largest integer not above it (00_scope.md section 4,
`ffloor`). -/
def Obligations.FloorIsExact : Prop :=
  ∀ a : F32, isFinite a = true → isFinite (ffloor a) = true ∧ ratValue (ffloor a) = ⌊ratValue a⌋
end

