-- ==== Sys2Proof/Laws/Decode.lean ====
section
/-!
SUPPORT. The fields of an assembled command word, and a word from its fields.
-/

namespace Sys2Proof

section
variable {op c f i : Nat} (hop : op < 256) (hc : c < 16) (hf : f < 16) (hi : i < 16384)
include hop hc hf hi

/-- The sum that `commandWord` writes fits 32 bits. -/
theorem commandWord_toNat :
    (commandWord op c f i).toNat = op * 2 ^ 24 + c * 2 ^ 20 + f * 2 ^ 16 + i := by
  rw [commandWord, BitVec.toNat_ofNat]
  omega

theorem opField_commandWord : opField (commandWord op c f i) = op := by
  rw [opField, BitVec.extractLsb'_toNat, commandWord_toNat hop hc hf hi, Nat.shiftRight_eq_div_pow]
  omega

theorem chField_commandWord : chField (commandWord op c f i) = c := by
  rw [chField, BitVec.extractLsb'_toNat, commandWord_toNat hop hc hf hi, Nat.shiftRight_eq_div_pow]
  omega

theorem fField_commandWord : fField (commandWord op c f i) = f := by
  rw [fField, BitVec.extractLsb'_toNat, commandWord_toNat hop hc hf hi, Nat.shiftRight_eq_div_pow]
  omega

theorem zeroField_commandWord : zeroField (commandWord op c f i) = 0 := by
  rw [zeroField, BitVec.extractLsb'_toNat, commandWord_toNat hop hc hf hi, Nat.shiftRight_eq_div_pow]
  omega

theorem idxField_commandWord : idxField (commandWord op c f i) = i := by
  rw [idxField, BitVec.extractLsb'_toNat, commandWord_toNat hop hc hf hi, Nat.shiftRight_eq_div_pow]
  omega
end

/-- The field values of a word stay in their ranges. -/
theorem field_bounds (w : Word) :
    opField w < 256 ∧ chField w < 16 ∧ fField w < 16 ∧ zeroField w < 4 ∧ idxField w < 16384 :=
  ⟨(w.extractLsb' 24 8).isLt, (w.extractLsb' 20 4).isLt, (w.extractLsb' 16 4).isLt,
    (w.extractLsb' 14 2).isLt, (w.extractLsb' 0 14).isLt⟩

/-- A word is the sum of its fields, each at its place (30_encoding.md R73). -/
theorem word_eq_fields (w : Word) :
    w.toNat = opField w * 2 ^ 24 + chField w * 2 ^ 20 + fField w * 2 ^ 16 + zeroField w * 2 ^ 14 +
      idxField w := by
  have := w.isLt
  simp only [opField, chField, fField, zeroField, idxField, BitVec.extractLsb'_toNat,
    Nat.shiftRight_eq_div_pow]
  omega

/-- A word whose zero field is zero is assembled from its other fields. -/
theorem commandWord_of_fields (w : Word) (h : zeroField w = 0) :
    commandWord (opField w) (chField w) (fField w) (idxField w) = w := by
  obtain ⟨h1, h2, h3, -, h5⟩ := field_bounds w
  apply BitVec.eq_of_toNat_eq
  rw [commandWord_toNat h1 h2 h3 h5, word_eq_fields w, h]
  omega

@[simp] theorem encoderOf_code (e : Encoder) : encoderOf (encoderCode e) = some e := by cases e <;> rfl

@[simp] theorem byteOrderOf_code (d : ByteOrder) : byteOrderOf (byteOrderCode d) = some d := by
  cases d <;> rfl

theorem encoderCode_lt (e : Encoder) : encoderCode e < 16 := by cases e <;> decide

theorem byteOrderCode_lt (d : ByteOrder) : byteOrderCode d < 16 := by cases d <;> decide

end Sys2Proof
end

