-- ==== Sys2Proof/Laws/State.lean ====
section
/-!
SUPPORT. One lemma per field per update of a channel and of the state, so that no proof unfolds a record
update.
-/

namespace Sys2Proof.Machine

@[simp] theorem Channel.setRaw_params (ch : Channel) (i : Nat) (v : F32) :
    (ch.setRaw i v).params = ch.params := rfl
@[simp] theorem Channel.setRaw_en (ch : Channel) (i : Nat) (v : F32) :
    (ch.setRaw i v).en = ch.en := rfl
@[simp] theorem Channel.setRaw_tadv (ch : Channel) (i : Nat) (v : F32) :
    (ch.setRaw i v).tadv = ch.tadv := rfl
@[simp] theorem Channel.setRaw_step (ch : Channel) (i : Nat) (v : F32) :
    (ch.setRaw i v).step = ch.step := rfl
@[simp] theorem Channel.setRaw_time (ch : Channel) (i : Nat) (v : F32) :
    (ch.setRaw i v).time = ch.time := rfl
@[simp] theorem Channel.setRaw_cache (ch : Channel) (i : Nat) (v : F32) :
    (ch.setRaw i v).cache = ch.cache := rfl
@[simp] theorem Channel.setRaw_rng (ch : Channel) (i : Nat) (v : F32) :
    (ch.setRaw i v).rng = ch.rng := rfl
@[simp] theorem Channel.setRaw_samples (ch : Channel) (i : Nat) (v : F32) :
    (ch.setRaw i v).samples = ch.samples := rfl
@[simp] theorem Channel.setRaw_mask (ch : Channel) (i : Nat) (v : F32) :
    (ch.setRaw i v).mask = ch.mask := rfl
@[simp] theorem Channel.setRaw_raw (ch : Channel) (i : Nat) (v : F32) :
    (ch.setRaw i v).raw = ch.raw.set i v := rfl

@[simp] theorem Channel.setSample_params (ch : Channel) (i : Nat) (v : F32) :
    (ch.setSample i v).params = ch.params := rfl
@[simp] theorem Channel.setSample_en (ch : Channel) (i : Nat) (v : F32) :
    (ch.setSample i v).en = ch.en := rfl
@[simp] theorem Channel.setSample_tadv (ch : Channel) (i : Nat) (v : F32) :
    (ch.setSample i v).tadv = ch.tadv := rfl
@[simp] theorem Channel.setSample_step (ch : Channel) (i : Nat) (v : F32) :
    (ch.setSample i v).step = ch.step := rfl
@[simp] theorem Channel.setSample_time (ch : Channel) (i : Nat) (v : F32) :
    (ch.setSample i v).time = ch.time := rfl
@[simp] theorem Channel.setSample_cache (ch : Channel) (i : Nat) (v : F32) :
    (ch.setSample i v).cache = ch.cache := rfl
@[simp] theorem Channel.setSample_rng (ch : Channel) (i : Nat) (v : F32) :
    (ch.setSample i v).rng = ch.rng := rfl
@[simp] theorem Channel.setSample_samples (ch : Channel) (i : Nat) (v : F32) :
    (ch.setSample i v).samples = ch.samples.set i v := rfl
@[simp] theorem Channel.setSample_mask (ch : Channel) (i : Nat) (v : F32) :
    (ch.setSample i v).mask = ch.mask := rfl
@[simp] theorem Channel.setSample_raw (ch : Channel) (i : Nat) (v : F32) :
    (ch.setSample i v).raw = ch.raw := rfl

@[simp] theorem Channel.setMask_params (ch : Channel) (i : Nat) (b : Bool) :
    (ch.setMask i b).params = ch.params := rfl
@[simp] theorem Channel.setMask_en (ch : Channel) (i : Nat) (b : Bool) :
    (ch.setMask i b).en = ch.en := rfl
@[simp] theorem Channel.setMask_tadv (ch : Channel) (i : Nat) (b : Bool) :
    (ch.setMask i b).tadv = ch.tadv := rfl
@[simp] theorem Channel.setMask_step (ch : Channel) (i : Nat) (b : Bool) :
    (ch.setMask i b).step = ch.step := rfl
@[simp] theorem Channel.setMask_time (ch : Channel) (i : Nat) (b : Bool) :
    (ch.setMask i b).time = ch.time := rfl
@[simp] theorem Channel.setMask_cache (ch : Channel) (i : Nat) (b : Bool) :
    (ch.setMask i b).cache = ch.cache := rfl
@[simp] theorem Channel.setMask_rng (ch : Channel) (i : Nat) (b : Bool) :
    (ch.setMask i b).rng = ch.rng := rfl
@[simp] theorem Channel.setMask_samples (ch : Channel) (i : Nat) (b : Bool) :
    (ch.setMask i b).samples = ch.samples := rfl
@[simp] theorem Channel.setMask_mask (ch : Channel) (i : Nat) (b : Bool) :
    (ch.setMask i b).mask = ch.mask.set i b := rfl
@[simp] theorem Channel.setMask_raw (ch : Channel) (i : Nat) (b : Bool) :
    (ch.setMask i b).raw = ch.raw := rfl

@[simp] theorem Channel.setCache_params (ch : Channel) (v : F32) :
    (ch.setCache v).params = ch.params := rfl
@[simp] theorem Channel.setCache_en (ch : Channel) (v : F32) :
    (ch.setCache v).en = ch.en := rfl
@[simp] theorem Channel.setCache_tadv (ch : Channel) (v : F32) :
    (ch.setCache v).tadv = ch.tadv := rfl
@[simp] theorem Channel.setCache_step (ch : Channel) (v : F32) :
    (ch.setCache v).step = ch.step := rfl
@[simp] theorem Channel.setCache_time (ch : Channel) (v : F32) :
    (ch.setCache v).time = ch.time := rfl
@[simp] theorem Channel.setCache_cache (ch : Channel) (v : F32) :
    (ch.setCache v).cache = v := rfl
@[simp] theorem Channel.setCache_rng (ch : Channel) (v : F32) :
    (ch.setCache v).rng = ch.rng := rfl
@[simp] theorem Channel.setCache_samples (ch : Channel) (v : F32) :
    (ch.setCache v).samples = ch.samples := rfl
@[simp] theorem Channel.setCache_mask (ch : Channel) (v : F32) :
    (ch.setCache v).mask = ch.mask := rfl
@[simp] theorem Channel.setCache_raw (ch : Channel) (v : F32) :
    (ch.setCache v).raw = ch.raw := rfl

@[simp] theorem Channel.setTime_params (ch : Channel) (v : F32) :
    (ch.setTime v).params = ch.params := rfl
@[simp] theorem Channel.setTime_en (ch : Channel) (v : F32) :
    (ch.setTime v).en = ch.en := rfl
@[simp] theorem Channel.setTime_tadv (ch : Channel) (v : F32) :
    (ch.setTime v).tadv = ch.tadv := rfl
@[simp] theorem Channel.setTime_step (ch : Channel) (v : F32) :
    (ch.setTime v).step = ch.step := rfl
@[simp] theorem Channel.setTime_time (ch : Channel) (v : F32) :
    (ch.setTime v).time = v := rfl
@[simp] theorem Channel.setTime_cache (ch : Channel) (v : F32) :
    (ch.setTime v).cache = ch.cache := rfl
@[simp] theorem Channel.setTime_rng (ch : Channel) (v : F32) :
    (ch.setTime v).rng = ch.rng := rfl
@[simp] theorem Channel.setTime_samples (ch : Channel) (v : F32) :
    (ch.setTime v).samples = ch.samples := rfl
@[simp] theorem Channel.setTime_mask (ch : Channel) (v : F32) :
    (ch.setTime v).mask = ch.mask := rfl
@[simp] theorem Channel.setTime_raw (ch : Channel) (v : F32) :
    (ch.setTime v).raw = ch.raw := rfl

@[simp] theorem Channel.setRng_params (ch : Channel) (r : Nat) :
    (ch.setRng r).params = ch.params := rfl
@[simp] theorem Channel.setRng_en (ch : Channel) (r : Nat) :
    (ch.setRng r).en = ch.en := rfl
@[simp] theorem Channel.setRng_tadv (ch : Channel) (r : Nat) :
    (ch.setRng r).tadv = ch.tadv := rfl
@[simp] theorem Channel.setRng_step (ch : Channel) (r : Nat) :
    (ch.setRng r).step = ch.step := rfl
@[simp] theorem Channel.setRng_time (ch : Channel) (r : Nat) :
    (ch.setRng r).time = ch.time := rfl
@[simp] theorem Channel.setRng_cache (ch : Channel) (r : Nat) :
    (ch.setRng r).cache = ch.cache := rfl
@[simp] theorem Channel.setRng_rng (ch : Channel) (r : Nat) :
    (ch.setRng r).rng = r := rfl
@[simp] theorem Channel.setRng_samples (ch : Channel) (r : Nat) :
    (ch.setRng r).samples = ch.samples := rfl
@[simp] theorem Channel.setRng_mask (ch : Channel) (r : Nat) :
    (ch.setRng r).mask = ch.mask := rfl
@[simp] theorem Channel.setRng_raw (ch : Channel) (r : Nat) :
    (ch.setRng r).raw = ch.raw := rfl

@[simp] theorem Channel.setStep_params (ch : Channel) (v : F32) :
    (ch.setStep v).params = ch.params := rfl
@[simp] theorem Channel.setStep_en (ch : Channel) (v : F32) :
    (ch.setStep v).en = ch.en := rfl
@[simp] theorem Channel.setStep_tadv (ch : Channel) (v : F32) :
    (ch.setStep v).tadv = ch.tadv := rfl
@[simp] theorem Channel.setStep_step (ch : Channel) (v : F32) :
    (ch.setStep v).step = v := rfl
@[simp] theorem Channel.setStep_time (ch : Channel) (v : F32) :
    (ch.setStep v).time = ch.time := rfl
@[simp] theorem Channel.setStep_cache (ch : Channel) (v : F32) :
    (ch.setStep v).cache = ch.cache := rfl
@[simp] theorem Channel.setStep_rng (ch : Channel) (v : F32) :
    (ch.setStep v).rng = ch.rng := rfl
@[simp] theorem Channel.setStep_samples (ch : Channel) (v : F32) :
    (ch.setStep v).samples = ch.samples := rfl
@[simp] theorem Channel.setStep_mask (ch : Channel) (v : F32) :
    (ch.setStep v).mask = ch.mask := rfl
@[simp] theorem Channel.setStep_raw (ch : Channel) (v : F32) :
    (ch.setStep v).raw = ch.raw := rfl

@[simp] theorem Channel.setCtrl_params (ch : Channel) (e t : Bool) :
    (ch.setCtrl e t).params = ch.params := rfl
@[simp] theorem Channel.setCtrl_en (ch : Channel) (e t : Bool) :
    (ch.setCtrl e t).en = e := rfl
@[simp] theorem Channel.setCtrl_tadv (ch : Channel) (e t : Bool) :
    (ch.setCtrl e t).tadv = t := rfl
@[simp] theorem Channel.setCtrl_step (ch : Channel) (e t : Bool) :
    (ch.setCtrl e t).step = ch.step := rfl
@[simp] theorem Channel.setCtrl_time (ch : Channel) (e t : Bool) :
    (ch.setCtrl e t).time = ch.time := rfl
@[simp] theorem Channel.setCtrl_cache (ch : Channel) (e t : Bool) :
    (ch.setCtrl e t).cache = ch.cache := rfl
@[simp] theorem Channel.setCtrl_rng (ch : Channel) (e t : Bool) :
    (ch.setCtrl e t).rng = ch.rng := rfl
@[simp] theorem Channel.setCtrl_samples (ch : Channel) (e t : Bool) :
    (ch.setCtrl e t).samples = ch.samples := rfl
@[simp] theorem Channel.setCtrl_mask (ch : Channel) (e t : Bool) :
    (ch.setCtrl e t).mask = ch.mask := rfl
@[simp] theorem Channel.setCtrl_raw (ch : Channel) (e t : Bool) :
    (ch.setCtrl e t).raw = ch.raw := rfl

@[simp] theorem Channel.setParams_params (ch : Channel) (p : Params) :
    (ch.setParams p).params = p := rfl
@[simp] theorem Channel.setParams_en (ch : Channel) (p : Params) :
    (ch.setParams p).en = ch.en := rfl
@[simp] theorem Channel.setParams_tadv (ch : Channel) (p : Params) :
    (ch.setParams p).tadv = ch.tadv := rfl
@[simp] theorem Channel.setParams_step (ch : Channel) (p : Params) :
    (ch.setParams p).step = ch.step := rfl
@[simp] theorem Channel.setParams_time (ch : Channel) (p : Params) :
    (ch.setParams p).time = ch.time := rfl
@[simp] theorem Channel.setParams_cache (ch : Channel) (p : Params) :
    (ch.setParams p).cache = ch.cache := rfl
@[simp] theorem Channel.setParams_rng (ch : Channel) (p : Params) :
    (ch.setParams p).rng = ch.rng := rfl
@[simp] theorem Channel.setParams_samples (ch : Channel) (p : Params) :
    (ch.setParams p).samples = ch.samples := rfl
@[simp] theorem Channel.setParams_mask (ch : Channel) (p : Params) :
    (ch.setParams p).mask = ch.mask := rfl
@[simp] theorem Channel.setParams_raw (ch : Channel) (p : Params) :
    (ch.setParams p).raw = ch.raw := rfl

@[simp] theorem State.setChan_build (s : State) (j : Nat) (ch : Channel) :
    (s.setChan j ch).build = s.build := rfl
@[simp] theorem State.setChan_badcmd (s : State) (j : Nat) (ch : Channel) :
    (s.setChan j ch).badcmd = s.badcmd := rfl
@[simp] theorem State.setChan_notfound (s : State) (j : Nat) (ch : Channel) :
    (s.setChan j ch).notfound = s.notfound := rfl
@[simp] theorem State.setChan_argT (s : State) (j : Nat) (ch : Channel) :
    (s.setChan j ch).argT = s.argT := rfl
@[simp] theorem State.setChan_argDt (s : State) (j : Nat) (ch : Channel) :
    (s.setChan j ch).argDt = s.argDt := rfl
@[simp] theorem State.setChan_argValue (s : State) (j : Nat) (ch : Channel) :
    (s.setChan j ch).argValue = s.argValue := rfl
@[simp] theorem State.setChan_argRgbb (s : State) (j : Nat) (ch : Channel) :
    (s.setChan j ch).argRgbb = s.argRgbb := rfl
@[simp] theorem State.setChan_result (s : State) (j : Nat) (ch : Channel) :
    (s.setChan j ch).result = s.result := rfl
@[simp] theorem State.setChan_ledBrightness (s : State) (j : Nat) (ch : Channel) :
    (s.setChan j ch).ledBrightness = s.ledBrightness := rfl
@[simp] theorem State.setChan_mapped (s : State) (j : Nat) (ch : Channel) :
    (s.setChan j ch).mapped = s.mapped := rfl
@[simp] theorem State.setChan_channels (s : State) (j : Nat) (ch : Channel) :
    (s.setChan j ch).channels = s.channels.set j ch := rfl
@[simp] theorem State.setChan_pending (s : State) (j : Nat) (ch : Channel) :
    (s.setChan j ch).pending = s.pending := rfl
@[simp] theorem State.setChan_reply (s : State) (j : Nat) (ch : Channel) :
    (s.setChan j ch).reply = s.reply := rfl

@[simp] theorem State.setMapped_build (s : State) (i : Nat) (w : Word) :
    (s.setMapped i w).build = s.build := rfl
@[simp] theorem State.setMapped_badcmd (s : State) (i : Nat) (w : Word) :
    (s.setMapped i w).badcmd = s.badcmd := rfl
@[simp] theorem State.setMapped_notfound (s : State) (i : Nat) (w : Word) :
    (s.setMapped i w).notfound = s.notfound := rfl
@[simp] theorem State.setMapped_argT (s : State) (i : Nat) (w : Word) :
    (s.setMapped i w).argT = s.argT := rfl
@[simp] theorem State.setMapped_argDt (s : State) (i : Nat) (w : Word) :
    (s.setMapped i w).argDt = s.argDt := rfl
@[simp] theorem State.setMapped_argValue (s : State) (i : Nat) (w : Word) :
    (s.setMapped i w).argValue = s.argValue := rfl
@[simp] theorem State.setMapped_argRgbb (s : State) (i : Nat) (w : Word) :
    (s.setMapped i w).argRgbb = s.argRgbb := rfl
@[simp] theorem State.setMapped_result (s : State) (i : Nat) (w : Word) :
    (s.setMapped i w).result = s.result := rfl
@[simp] theorem State.setMapped_ledBrightness (s : State) (i : Nat) (w : Word) :
    (s.setMapped i w).ledBrightness = s.ledBrightness := rfl
@[simp] theorem State.setMapped_mapped (s : State) (i : Nat) (w : Word) :
    (s.setMapped i w).mapped = s.mapped.set i w := rfl
@[simp] theorem State.setMapped_channels (s : State) (i : Nat) (w : Word) :
    (s.setMapped i w).channels = s.channels := rfl
@[simp] theorem State.setMapped_pending (s : State) (i : Nat) (w : Word) :
    (s.setMapped i w).pending = s.pending := rfl
@[simp] theorem State.setMapped_reply (s : State) (i : Nat) (w : Word) :
    (s.setMapped i w).reply = s.reply := rfl

@[simp] theorem State.setResult_build (s : State) (w : Word) :
    (s.setResult w).build = s.build := rfl
@[simp] theorem State.setResult_badcmd (s : State) (w : Word) :
    (s.setResult w).badcmd = s.badcmd := rfl
@[simp] theorem State.setResult_notfound (s : State) (w : Word) :
    (s.setResult w).notfound = s.notfound := rfl
@[simp] theorem State.setResult_argT (s : State) (w : Word) :
    (s.setResult w).argT = s.argT := rfl
@[simp] theorem State.setResult_argDt (s : State) (w : Word) :
    (s.setResult w).argDt = s.argDt := rfl
@[simp] theorem State.setResult_argValue (s : State) (w : Word) :
    (s.setResult w).argValue = s.argValue := rfl
@[simp] theorem State.setResult_argRgbb (s : State) (w : Word) :
    (s.setResult w).argRgbb = s.argRgbb := rfl
@[simp] theorem State.setResult_result (s : State) (w : Word) :
    (s.setResult w).result = w := rfl
@[simp] theorem State.setResult_ledBrightness (s : State) (w : Word) :
    (s.setResult w).ledBrightness = s.ledBrightness := rfl
@[simp] theorem State.setResult_mapped (s : State) (w : Word) :
    (s.setResult w).mapped = s.mapped := rfl
@[simp] theorem State.setResult_channels (s : State) (w : Word) :
    (s.setResult w).channels = s.channels := rfl
@[simp] theorem State.setResult_pending (s : State) (w : Word) :
    (s.setResult w).pending = s.pending := rfl
@[simp] theorem State.setResult_reply (s : State) (w : Word) :
    (s.setResult w).reply = s.reply := rfl

@[simp] theorem State.setArgT_build (s : State) (w : Word) :
    (s.setArgT w).build = s.build := rfl
@[simp] theorem State.setArgT_badcmd (s : State) (w : Word) :
    (s.setArgT w).badcmd = s.badcmd := rfl
@[simp] theorem State.setArgT_notfound (s : State) (w : Word) :
    (s.setArgT w).notfound = s.notfound := rfl
@[simp] theorem State.setArgT_argT (s : State) (w : Word) :
    (s.setArgT w).argT = w := rfl
@[simp] theorem State.setArgT_argDt (s : State) (w : Word) :
    (s.setArgT w).argDt = s.argDt := rfl
@[simp] theorem State.setArgT_argValue (s : State) (w : Word) :
    (s.setArgT w).argValue = s.argValue := rfl
@[simp] theorem State.setArgT_argRgbb (s : State) (w : Word) :
    (s.setArgT w).argRgbb = s.argRgbb := rfl
@[simp] theorem State.setArgT_result (s : State) (w : Word) :
    (s.setArgT w).result = s.result := rfl
@[simp] theorem State.setArgT_ledBrightness (s : State) (w : Word) :
    (s.setArgT w).ledBrightness = s.ledBrightness := rfl
@[simp] theorem State.setArgT_mapped (s : State) (w : Word) :
    (s.setArgT w).mapped = s.mapped := rfl
@[simp] theorem State.setArgT_channels (s : State) (w : Word) :
    (s.setArgT w).channels = s.channels := rfl
@[simp] theorem State.setArgT_pending (s : State) (w : Word) :
    (s.setArgT w).pending = s.pending := rfl
@[simp] theorem State.setArgT_reply (s : State) (w : Word) :
    (s.setArgT w).reply = s.reply := rfl

@[simp] theorem State.setArgDt_build (s : State) (w : Word) :
    (s.setArgDt w).build = s.build := rfl
@[simp] theorem State.setArgDt_badcmd (s : State) (w : Word) :
    (s.setArgDt w).badcmd = s.badcmd := rfl
@[simp] theorem State.setArgDt_notfound (s : State) (w : Word) :
    (s.setArgDt w).notfound = s.notfound := rfl
@[simp] theorem State.setArgDt_argT (s : State) (w : Word) :
    (s.setArgDt w).argT = s.argT := rfl
@[simp] theorem State.setArgDt_argDt (s : State) (w : Word) :
    (s.setArgDt w).argDt = w := rfl
@[simp] theorem State.setArgDt_argValue (s : State) (w : Word) :
    (s.setArgDt w).argValue = s.argValue := rfl
@[simp] theorem State.setArgDt_argRgbb (s : State) (w : Word) :
    (s.setArgDt w).argRgbb = s.argRgbb := rfl
@[simp] theorem State.setArgDt_result (s : State) (w : Word) :
    (s.setArgDt w).result = s.result := rfl
@[simp] theorem State.setArgDt_ledBrightness (s : State) (w : Word) :
    (s.setArgDt w).ledBrightness = s.ledBrightness := rfl
@[simp] theorem State.setArgDt_mapped (s : State) (w : Word) :
    (s.setArgDt w).mapped = s.mapped := rfl
@[simp] theorem State.setArgDt_channels (s : State) (w : Word) :
    (s.setArgDt w).channels = s.channels := rfl
@[simp] theorem State.setArgDt_pending (s : State) (w : Word) :
    (s.setArgDt w).pending = s.pending := rfl
@[simp] theorem State.setArgDt_reply (s : State) (w : Word) :
    (s.setArgDt w).reply = s.reply := rfl

@[simp] theorem State.setArgValue_build (s : State) (w : Word) :
    (s.setArgValue w).build = s.build := rfl
@[simp] theorem State.setArgValue_badcmd (s : State) (w : Word) :
    (s.setArgValue w).badcmd = s.badcmd := rfl
@[simp] theorem State.setArgValue_notfound (s : State) (w : Word) :
    (s.setArgValue w).notfound = s.notfound := rfl
@[simp] theorem State.setArgValue_argT (s : State) (w : Word) :
    (s.setArgValue w).argT = s.argT := rfl
@[simp] theorem State.setArgValue_argDt (s : State) (w : Word) :
    (s.setArgValue w).argDt = s.argDt := rfl
@[simp] theorem State.setArgValue_argValue (s : State) (w : Word) :
    (s.setArgValue w).argValue = w := rfl
@[simp] theorem State.setArgValue_argRgbb (s : State) (w : Word) :
    (s.setArgValue w).argRgbb = s.argRgbb := rfl
@[simp] theorem State.setArgValue_result (s : State) (w : Word) :
    (s.setArgValue w).result = s.result := rfl
@[simp] theorem State.setArgValue_ledBrightness (s : State) (w : Word) :
    (s.setArgValue w).ledBrightness = s.ledBrightness := rfl
@[simp] theorem State.setArgValue_mapped (s : State) (w : Word) :
    (s.setArgValue w).mapped = s.mapped := rfl
@[simp] theorem State.setArgValue_channels (s : State) (w : Word) :
    (s.setArgValue w).channels = s.channels := rfl
@[simp] theorem State.setArgValue_pending (s : State) (w : Word) :
    (s.setArgValue w).pending = s.pending := rfl
@[simp] theorem State.setArgValue_reply (s : State) (w : Word) :
    (s.setArgValue w).reply = s.reply := rfl

@[simp] theorem State.setArgRgbb_build (s : State) (w : Word) :
    (s.setArgRgbb w).build = s.build := rfl
@[simp] theorem State.setArgRgbb_badcmd (s : State) (w : Word) :
    (s.setArgRgbb w).badcmd = s.badcmd := rfl
@[simp] theorem State.setArgRgbb_notfound (s : State) (w : Word) :
    (s.setArgRgbb w).notfound = s.notfound := rfl
@[simp] theorem State.setArgRgbb_argT (s : State) (w : Word) :
    (s.setArgRgbb w).argT = s.argT := rfl
@[simp] theorem State.setArgRgbb_argDt (s : State) (w : Word) :
    (s.setArgRgbb w).argDt = s.argDt := rfl
@[simp] theorem State.setArgRgbb_argValue (s : State) (w : Word) :
    (s.setArgRgbb w).argValue = s.argValue := rfl
@[simp] theorem State.setArgRgbb_argRgbb (s : State) (w : Word) :
    (s.setArgRgbb w).argRgbb = w := rfl
@[simp] theorem State.setArgRgbb_result (s : State) (w : Word) :
    (s.setArgRgbb w).result = s.result := rfl
@[simp] theorem State.setArgRgbb_ledBrightness (s : State) (w : Word) :
    (s.setArgRgbb w).ledBrightness = s.ledBrightness := rfl
@[simp] theorem State.setArgRgbb_mapped (s : State) (w : Word) :
    (s.setArgRgbb w).mapped = s.mapped := rfl
@[simp] theorem State.setArgRgbb_channels (s : State) (w : Word) :
    (s.setArgRgbb w).channels = s.channels := rfl
@[simp] theorem State.setArgRgbb_pending (s : State) (w : Word) :
    (s.setArgRgbb w).pending = s.pending := rfl
@[simp] theorem State.setArgRgbb_reply (s : State) (w : Word) :
    (s.setArgRgbb w).reply = s.reply := rfl

@[simp] theorem State.setLedBrightness_build (s : State) (b : BitVec 5) :
    (s.setLedBrightness b).build = s.build := rfl
@[simp] theorem State.setLedBrightness_badcmd (s : State) (b : BitVec 5) :
    (s.setLedBrightness b).badcmd = s.badcmd := rfl
@[simp] theorem State.setLedBrightness_notfound (s : State) (b : BitVec 5) :
    (s.setLedBrightness b).notfound = s.notfound := rfl
@[simp] theorem State.setLedBrightness_argT (s : State) (b : BitVec 5) :
    (s.setLedBrightness b).argT = s.argT := rfl
@[simp] theorem State.setLedBrightness_argDt (s : State) (b : BitVec 5) :
    (s.setLedBrightness b).argDt = s.argDt := rfl
@[simp] theorem State.setLedBrightness_argValue (s : State) (b : BitVec 5) :
    (s.setLedBrightness b).argValue = s.argValue := rfl
@[simp] theorem State.setLedBrightness_argRgbb (s : State) (b : BitVec 5) :
    (s.setLedBrightness b).argRgbb = s.argRgbb := rfl
@[simp] theorem State.setLedBrightness_result (s : State) (b : BitVec 5) :
    (s.setLedBrightness b).result = s.result := rfl
@[simp] theorem State.setLedBrightness_ledBrightness (s : State) (b : BitVec 5) :
    (s.setLedBrightness b).ledBrightness = b := rfl
@[simp] theorem State.setLedBrightness_mapped (s : State) (b : BitVec 5) :
    (s.setLedBrightness b).mapped = s.mapped := rfl
@[simp] theorem State.setLedBrightness_channels (s : State) (b : BitVec 5) :
    (s.setLedBrightness b).channels = s.channels := rfl
@[simp] theorem State.setLedBrightness_pending (s : State) (b : BitVec 5) :
    (s.setLedBrightness b).pending = s.pending := rfl
@[simp] theorem State.setLedBrightness_reply (s : State) (b : BitVec 5) :
    (s.setLedBrightness b).reply = s.reply := rfl

@[simp] theorem State.setBadcmd_build (s : State) (b : Bool) :
    (s.setBadcmd b).build = s.build := rfl
@[simp] theorem State.setBadcmd_badcmd (s : State) (b : Bool) :
    (s.setBadcmd b).badcmd = b := rfl
@[simp] theorem State.setBadcmd_notfound (s : State) (b : Bool) :
    (s.setBadcmd b).notfound = s.notfound := rfl
@[simp] theorem State.setBadcmd_argT (s : State) (b : Bool) :
    (s.setBadcmd b).argT = s.argT := rfl
@[simp] theorem State.setBadcmd_argDt (s : State) (b : Bool) :
    (s.setBadcmd b).argDt = s.argDt := rfl
@[simp] theorem State.setBadcmd_argValue (s : State) (b : Bool) :
    (s.setBadcmd b).argValue = s.argValue := rfl
@[simp] theorem State.setBadcmd_argRgbb (s : State) (b : Bool) :
    (s.setBadcmd b).argRgbb = s.argRgbb := rfl
@[simp] theorem State.setBadcmd_result (s : State) (b : Bool) :
    (s.setBadcmd b).result = s.result := rfl
@[simp] theorem State.setBadcmd_ledBrightness (s : State) (b : Bool) :
    (s.setBadcmd b).ledBrightness = s.ledBrightness := rfl
@[simp] theorem State.setBadcmd_mapped (s : State) (b : Bool) :
    (s.setBadcmd b).mapped = s.mapped := rfl
@[simp] theorem State.setBadcmd_channels (s : State) (b : Bool) :
    (s.setBadcmd b).channels = s.channels := rfl
@[simp] theorem State.setBadcmd_pending (s : State) (b : Bool) :
    (s.setBadcmd b).pending = s.pending := rfl
@[simp] theorem State.setBadcmd_reply (s : State) (b : Bool) :
    (s.setBadcmd b).reply = s.reply := rfl

@[simp] theorem State.setNotfound_build (s : State) (b : Bool) :
    (s.setNotfound b).build = s.build := rfl
@[simp] theorem State.setNotfound_badcmd (s : State) (b : Bool) :
    (s.setNotfound b).badcmd = s.badcmd := rfl
@[simp] theorem State.setNotfound_notfound (s : State) (b : Bool) :
    (s.setNotfound b).notfound = b := rfl
@[simp] theorem State.setNotfound_argT (s : State) (b : Bool) :
    (s.setNotfound b).argT = s.argT := rfl
@[simp] theorem State.setNotfound_argDt (s : State) (b : Bool) :
    (s.setNotfound b).argDt = s.argDt := rfl
@[simp] theorem State.setNotfound_argValue (s : State) (b : Bool) :
    (s.setNotfound b).argValue = s.argValue := rfl
@[simp] theorem State.setNotfound_argRgbb (s : State) (b : Bool) :
    (s.setNotfound b).argRgbb = s.argRgbb := rfl
@[simp] theorem State.setNotfound_result (s : State) (b : Bool) :
    (s.setNotfound b).result = s.result := rfl
@[simp] theorem State.setNotfound_ledBrightness (s : State) (b : Bool) :
    (s.setNotfound b).ledBrightness = s.ledBrightness := rfl
@[simp] theorem State.setNotfound_mapped (s : State) (b : Bool) :
    (s.setNotfound b).mapped = s.mapped := rfl
@[simp] theorem State.setNotfound_channels (s : State) (b : Bool) :
    (s.setNotfound b).channels = s.channels := rfl
@[simp] theorem State.setNotfound_pending (s : State) (b : Bool) :
    (s.setNotfound b).pending = s.pending := rfl
@[simp] theorem State.setNotfound_reply (s : State) (b : Bool) :
    (s.setNotfound b).reply = s.reply := rfl

@[simp] theorem State.setPort_build (s : State) (q : List HostEvent) (r : Option PortData) :
    (s.setPort q r).build = s.build := rfl
@[simp] theorem State.setPort_badcmd (s : State) (q : List HostEvent) (r : Option PortData) :
    (s.setPort q r).badcmd = s.badcmd := rfl
@[simp] theorem State.setPort_notfound (s : State) (q : List HostEvent) (r : Option PortData) :
    (s.setPort q r).notfound = s.notfound := rfl
@[simp] theorem State.setPort_argT (s : State) (q : List HostEvent) (r : Option PortData) :
    (s.setPort q r).argT = s.argT := rfl
@[simp] theorem State.setPort_argDt (s : State) (q : List HostEvent) (r : Option PortData) :
    (s.setPort q r).argDt = s.argDt := rfl
@[simp] theorem State.setPort_argValue (s : State) (q : List HostEvent) (r : Option PortData) :
    (s.setPort q r).argValue = s.argValue := rfl
@[simp] theorem State.setPort_argRgbb (s : State) (q : List HostEvent) (r : Option PortData) :
    (s.setPort q r).argRgbb = s.argRgbb := rfl
@[simp] theorem State.setPort_result (s : State) (q : List HostEvent) (r : Option PortData) :
    (s.setPort q r).result = s.result := rfl
@[simp] theorem State.setPort_ledBrightness (s : State) (q : List HostEvent) (r : Option PortData) :
    (s.setPort q r).ledBrightness = s.ledBrightness := rfl
@[simp] theorem State.setPort_mapped (s : State) (q : List HostEvent) (r : Option PortData) :
    (s.setPort q r).mapped = s.mapped := rfl
@[simp] theorem State.setPort_channels (s : State) (q : List HostEvent) (r : Option PortData) :
    (s.setPort q r).channels = s.channels := rfl
@[simp] theorem State.setPort_pending (s : State) (q : List HostEvent) (r : Option PortData) :
    (s.setPort q r).pending = q := rfl
@[simp] theorem State.setPort_reply (s : State) (q : List HostEvent) (r : Option PortData) :
    (s.setPort q r).reply = r := rfl

end Sys2Proof.Machine
end

