-- ==== Sys2Proof/Laws/Ops.lean ====
section
/-!
SUPPORT. What each shared operation can do, said once: the loop, the element and channel accessors,
the rewriting of a whole buffer, and one transaction.
-/

namespace Sys2Proof.Machine

/-! ### The loop -/

@[simp] theorem forUpto_zero {α : Type} (body : Nat → α → α) (a : α) : forUpto 0 body a = a := rfl

theorem forUpto_succ {α : Type} (n : Nat) (body : Nat → α → α) (a : α) :
    forUpto (n + 1) body a = body n (forUpto n body a) := by
  simp [forUpto, List.range_succ]

/-- What holds before the first round and is kept by each holds at the end. -/
theorem forUpto_induct {α : Type} {n : Nat} {body : Nat → α → α} {a : α} (P : Nat → α → Prop)
    (start : P 0 a) (round : ∀ i, i < n → ∀ x, P i x → P (i + 1) (body i x)) :
    P n (forUpto n body a) := by
  have h : ∀ m, m ≤ n → P m (forUpto m body a) := by
    intro m
    induction m with
    | zero => intro _; exact start
    | succ k ih =>
      intro hk
      rw [forUpto_succ]
      exact round k hk _ (ih (by omega))
  exact h n le_rfl

/-- A loop seen through a projection that each round commutes with. -/
theorem forUpto_map {α β : Type} (π : α → β) (n : Nat) (f : Nat → α → α) (g : Nat → β → β)
    (h : ∀ i x, π (f i x) = g i (π x)) (a : α) : π (forUpto n f a) = forUpto n g (π a) := by
  induction n with
  | zero => rfl
  | succ k ih => rw [forUpto_succ, forUpto_succ, h, ih]

/-- Two loops with equal rounds are equal. -/
theorem forUpto_congr {α : Type} {n : Nat} {f g : Nat → α → α} (h : ∀ i, i < n → ∀ x, f i x = g i x)
    (a : α) : forUpto n f a = forUpto n g a := by
  induction n with
  | zero => rfl
  | succ k ih =>
    rw [forUpto_succ, forUpto_succ, ih fun i hi => h i (by omega), h k (by omega)]

/-- Rewriting the elements below `n`, one after another, from their own old values. -/
theorem forUpto_set_length {α : Type} (d : α) (G : Nat → α → α) (n : Nat) (l : List α) :
    (forUpto n (fun i l => l.set i (G i (l.getD i d))) l).length = l.length := by
  induction n with
  | zero => rfl
  | succ k ih => rw [forUpto_succ, List.length_set, ih]

theorem forUpto_set_getElem? {α : Type} (d : α) (G : Nat → α → α) (n : Nat) (l : List α) (k : Nat) :
    (forUpto n (fun i l => l.set i (G i (l.getD i d))) l)[k]? =
      if k < n then l[k]?.map (G k) else l[k]? := by
  induction n with
  | zero => simp
  | succ m ih =>
    rw [forUpto_succ, List.getElem?_set, forUpto_set_length, List.getD_eq_getElem?_getD]
    by_cases hk : m = k
    · subst hk
      rw [ih, if_pos rfl, if_neg (lt_irrefl _), if_pos (Nat.lt_succ_self _)]
      by_cases hm : m < l.length
      · rw [if_pos hm, List.getElem?_eq_getElem hm]; rfl
      · rw [if_neg hm, List.getElem?_eq_none (by omega)]; rfl
    · rw [if_neg hk, ih]
      by_cases h : k < m
      · rw [if_pos h, if_pos (by omega)]
      · rw [if_neg h, if_neg (by omega)]

/-- Rewriting every element is a map over the indexed list. -/
theorem forUpto_set_all {α : Type} (d : α) (G : Nat → α → α) (l : List α) :
    forUpto l.length (fun i l => l.set i (G i (l.getD i d))) l = l.mapIdx G := by
  apply List.ext_getElem?
  intro k
  rw [forUpto_set_getElem?, List.getElem?_mapIdx]
  by_cases h : k < l.length
  · rw [if_pos h]
  · rw [if_neg h, List.getElem?_eq_none (by omega)]; rfl

/-! ### Elements -/

theorem mappedAt_setMapped (s : State) (i k : Nat) (w : Word) :
    (s.setMapped i w).mappedAt k = if i = k ∧ i < s.mapped.length then w else s.mappedAt k := by
  simp only [State.mappedAt, State.setMapped_mapped, List.getD_eq_getElem?_getD, List.getElem?_set]
  by_cases h : i = k
  · subst h
    by_cases hi : i < s.mapped.length
    · simp [hi]
    · simp [hi]
  · simp [h]

theorem chan_setChan (s : State) (j k : Nat) (ch : Channel) :
    (s.setChan j ch).chan k = if j = k ∧ j < s.channels.length then ch else s.chan k := by
  simp only [State.chan, State.setChan_channels, List.getD_eq_getElem?_getD, List.getElem?_set]
  by_cases h : j = k
  · subst h
    by_cases hj : j < s.channels.length
    · simp [hj]
    · simp [hj]
  · simp [h]

theorem rawAt_setRaw (ch : Channel) (i k : Nat) (v : F32) :
    (ch.setRaw i v).rawAt k = if i = k ∧ i < ch.raw.length then v else ch.rawAt k := by
  simp only [Channel.rawAt, Channel.setRaw_raw, List.getD_eq_getElem?_getD, List.getElem?_set]
  by_cases h : i = k
  · subst h
    by_cases hi : i < ch.raw.length
    · simp [hi]
    · simp [hi]
  · simp [h]

theorem sampleAt_setSample (ch : Channel) (i k : Nat) (v : F32) :
    (ch.setSample i v).sampleAt k = if i = k ∧ i < ch.samples.length then v else ch.sampleAt k := by
  simp only [Channel.sampleAt, Channel.setSample_samples, List.getD_eq_getElem?_getD,
    List.getElem?_set]
  by_cases h : i = k
  · subst h
    by_cases hi : i < ch.samples.length
    · simp [hi]
    · simp [hi]
  · simp [h]

theorem maskAt_setMask (ch : Channel) (i k : Nat) (b : Bool) :
    (ch.setMask i b).maskAt k = if i = k ∧ i < ch.mask.length then b else ch.maskAt k := by
  simp only [Channel.maskAt, Channel.setMask_mask, List.getD_eq_getElem?_getD, List.getElem?_set]
  by_cases h : i = k
  · subst h
    by_cases hi : i < ch.mask.length
    · simp [hi]
    · simp [hi]
  · simp [h]

@[simp] theorem rawAt_setSample (ch : Channel) (i k : Nat) (v : F32) :
    (ch.setSample i v).rawAt k = ch.rawAt k := rfl

@[simp] theorem chan_setMapped (s : State) (i j : Nat) (w : Word) :
    (s.setMapped i w).chan j = s.chan j := rfl

@[simp] theorem mappedAt_setChan (s : State) (i j : Nat) (ch : Channel) :
    (s.setChan j ch).mappedAt i = s.mappedAt i := rfl

@[simp] theorem chan_setNotfound (s : State) (j : Nat) (b : Bool) :
    (s.setNotfound b).chan j = s.chan j := rfl

@[simp] theorem chan_setResult (s : State) (j : Nat) (w : Word) :
    (s.setResult w).chan j = s.chan j := rfl

@[simp] theorem chan_setPort (s : State) (j : Nat) (q : List HostEvent) (r : Option PortData) :
    (s.setPort q r).chan j = s.chan j := rfl

/-- The pixel encoder does not look at MAPPED. -/
@[simp] theorem encodeSample_setMapped (s : State) (e : Encoder) (v : F32) (c i : Nat) (w : Word) :
    encodeSample (s.setMapped i w) e v c = encodeSample s e v c := rfl

/-! ### Whole buffers -/

/-- A loop over the packed buffer that rewrites each word from its old value. -/
theorem forUpto_setMapped (G : Nat → Word → Word) (s : State) (n : Nat) (hn : s.mapped.length = n) :
    forUpto n (fun i s => s.setMapped i (G i (s.mappedAt i))) s =
      { s with mapped := s.mapped.mapIdx G } := by
  have h : ∀ m, forUpto m (fun i s => s.setMapped i (G i (s.mappedAt i))) s =
      { s with mapped :=
          forUpto m (fun i l => l.set i (G i (l.getD i 0x00000000#32))) s.mapped } := by
    intro m
    induction m with
    | zero => rfl
    | succ k ih => rw [forUpto_succ, ih, forUpto_succ]; rfl
  rw [h, ← hn, forUpto_set_all]

/-- A loop over the channels that rewrites each from its old value. -/
theorem forUpto_setChan (F : Channel → Channel) (s : State) (n : Nat) (hn : s.channels.length = n) :
    forUpto n (fun j s => s.setChan j (F (s.chan j))) s = { s with channels := s.channels.map F } := by
  have h : ∀ m, forUpto m (fun j s => s.setChan j (F (s.chan j))) s =
      { s with channels :=
          forUpto m (fun j l => l.set j (F (l.getD j Channel.absent))) s.channels } := by
    intro m
    induction m with
    | zero => rfl
    | succ k ih => rw [forUpto_succ, ih, forUpto_succ]; rfl
  rw [h, ← hn, forUpto_set_all Channel.absent (fun _ => F)]
  congr 1
  apply List.ext_getElem?
  intro k
  rw [List.getElem?_mapIdx, List.getElem?_map]

/-! ### The address map -/

/-- The global offsets with no register, among the multiples of 4 (20_memory.md R56). -/
theorem globalRegAt_eq_none_iff (n : Nat) (h : n % 4 = 0) : globalRegAt n = none ↔ 0x24 ≤ n := by
  unfold globalRegAt
  split <;> simp_all
  by_contra hn
  omega

/-- The channel offsets with no register, among the multiples of 4 (20_memory.md R57). -/
theorem channelRegAt_eq_none_iff (n : Nat) (h : n % 4 = 0) : channelRegAt n = none ↔ 0x28 ≤ n := by
  unfold channelRegAt
  split <;> simp_all
  by_contra hn
  omega

/-- The empty offsets of the channel windows, among the multiples of 4 (20_memory.md R55, R57). -/
theorem channelTarget_eq_empty_iff (b : Build) (n : Nat) (h : n % 4 = 0) :
    channelTarget b n = .empty ↔ 0x28 ≤ n % 0x100 ∨ b.channels ≤ n / 0x100 := by
  have hr := channelRegAt_eq_none_iff (n % 0x100) (by omega)
  unfold channelTarget
  cases hc : channelRegAt (n % 0x100) <;> simp [hc] at hr ⊢
  · exact .inl hr
  · omega

/-- The empty offsets of a buffer region (20_memory.md R55). -/
theorem elementAt_eq_empty_iff (b : Build) (mk : Nat → Nat → Target) (hmk : ∀ j i, mk j i ≠ .empty)
    (n : Nat) : elementAt b mk n = .empty ↔
      b.channels ≤ n / 0x10000 ∨ b.points ≤ n % 0x10000 / 4 := by
  unfold elementAt
  split_ifs with h
  · simp only [hmk, false_iff]; omega
  · simp only [true_iff]; omega

/-! ### One transaction -/

/-- With no event waiting the step changes nothing (60_exceptions.md R148). -/
theorem step_idle (s : State) (h : s.pending = []) : step s = .next s := by
  simp [step, stepBody, h]

/-- With an event waiting the step performs it. -/
theorem step_perform (s : State) (e : HostEvent) (rest : List HostEvent) (h : s.pending = e :: rest) :
    step s = perform e (s.setPort rest none) := by
  simp [step, stepBody, h]

/-- A command word that decodes runs its command. -/
theorem runCommand_ok {w : Word} {i : Instr} (s : State) (h : decode w = .ok i) :
    runCommand w s = exec i s := by
  simp [runCommand, h]

/-- A command word that does not decode sets BADCMD (30_encoding.md R77). -/
theorem runCommand_error {w : Word} {e : DecodeError} (s : State) (h : decode w = .error e) :
    runCommand w s = .next (s.setBadcmd true) := by
  simp [runCommand, h, flagBadCommand]

/-- A GEN_* command either reports a missing channel or runs its body with NOTFOUND clear. -/
theorem onGenerator_cases (s : State) (c : Nat) (body : State → State) :
    (s.build.channels ≤ c ∧ onGenerator s c body = s.setNotfound true) ∨
      (c < s.build.channels ∧ onGenerator s c body = body (s.setNotfound false)) := by
  by_cases h : s.build.channels ≤ c
  · exact .inl ⟨h, by simp [onGenerator, markFound, h]⟩
  · exact .inr ⟨by omega, by simp [onGenerator, markFound, h]⟩

/-- The invariant in its parts. -/
theorem State.inv_iff (s : State) : s.Inv ↔ s.build.wf = true ∧ s.channels.length = s.build.channels ∧
    s.mapped.length = s.build.points ∧ ∀ ch ∈ s.channels, ch.samples.length = s.build.points ∧
      ch.mask.length = s.build.points ∧ ch.raw.length = s.build.points := by
  simp [State.Inv, State.inv, State.sized, Channel.sized, and_assoc]

/-- The constraints on a build in their parts. -/
theorem Build.wf_iff (b : Build) : b.wf = true ↔ 1 ≤ b.channels ∧ b.channels ≤ 16 ∧ 1 ≤ b.points ∧
    b.points ≤ 16384 ∧ isFinite b.normMin = true ∧ isFinite b.normMax = true ∧
    flt b.normMin b.normMax = true ∧ isFinite (fsub b.normMax b.normMin) = true ∧
    b.initParams.length = b.channels ∧ b.initSeed.length = b.channels := by
  simp [Build.wf, and_assoc]

end Sys2Proof.Machine
end

