-- ==== Sys2Proof/Laws/PerInstr.lean ====
section
/-!
SUPPORT. Statements made for every command as syntax, one lemma per constructor of `Instr`.
-/

namespace Sys2Proof.Laws

/-- The opcode of a command, the OP column of 30_encoding.md R75. -/
def opcodeOf (i : Instr) : Nat :=
  match i with
  | .update => 0x01
  | .treset => 0x02
  | .map _ _ => 0x03
  | .clear => 0x04
  | .finalize _ => 0x05
  | .genUpdatePoint _ _ => 0x10
  | .genUpdate _ => 0x11
  | .genReset _ => 0x12
  | .genMask _ _ => 0x13
  | .quantize _ => 0x20
  | .formatLed => 0x21

/-- The word of a well-formed command has the row's opcode, a zero field of zero, and an F field of 0
or 1 (30_encoding.md R73, R75, R76). -/
def EncodeFitsRow.Statement (i : Instr) : Prop :=
  i.WellFormed → opField (encode i) = opcodeOf i ∧ zeroField (encode i) = 0 ∧ fField (encode i) < 2

/-- The three fields of an assembled word. -/
theorem commandWord_fitsRow {op c f x : Nat} (hop : op < 256) (hc : c < 16) (hf : f < 2)
    (hx : x < 16384) :
    opField (commandWord op c f x) = op ∧ zeroField (commandWord op c f x) = 0 ∧
      fField (commandWord op c f x) < 2 := by
  rw [opField_commandWord hop hc (by omega) hx, zeroField_commandWord hop hc (by omega) hx,
    fField_commandWord hop hc (by omega) hx]
  exact ⟨rfl, rfl, hf⟩

theorem EncodeFitsRow.update : EncodeFitsRow.Statement .update := fun _ => by decide

theorem EncodeFitsRow.treset : EncodeFitsRow.Statement .treset := fun _ => by decide

theorem EncodeFitsRow.map (c : Nat) (e : Encoder) : EncodeFitsRow.Statement (.map c e) := by
  intro h
  have hc : c < 16 := by simpa [Instr.WellFormed, Instr.wellFormed] using h
  exact commandWord_fitsRow (by decide) hc (by cases e <;> decide) (by decide)

theorem EncodeFitsRow.clear : EncodeFitsRow.Statement .clear := fun _ => by decide

theorem EncodeFitsRow.finalize (d : ByteOrder) : EncodeFitsRow.Statement (.finalize d) := by
  intro _
  exact commandWord_fitsRow (by decide) (by decide) (by cases d <;> decide) (by decide)

theorem EncodeFitsRow.genUpdatePoint (c i : Nat) : EncodeFitsRow.Statement (.genUpdatePoint c i) := by
  intro h
  have h : c < 16 ∧ i < 16384 := by simpa [Instr.WellFormed, Instr.wellFormed] using h
  exact commandWord_fitsRow (by decide) h.1 (by decide) h.2

theorem EncodeFitsRow.genUpdate (c : Nat) : EncodeFitsRow.Statement (.genUpdate c) := by
  intro h
  have hc : c < 16 := by simpa [Instr.WellFormed, Instr.wellFormed] using h
  exact commandWord_fitsRow (by decide) hc (by decide) (by decide)

theorem EncodeFitsRow.genReset (c : Nat) : EncodeFitsRow.Statement (.genReset c) := by
  intro h
  have hc : c < 16 := by simpa [Instr.WellFormed, Instr.wellFormed] using h
  exact commandWord_fitsRow (by decide) hc (by decide) (by decide)

theorem EncodeFitsRow.genMask (c i : Nat) : EncodeFitsRow.Statement (.genMask c i) := by
  intro h
  have h : c < 16 ∧ i < 16384 := by simpa [Instr.WellFormed, Instr.wellFormed] using h
  exact commandWord_fitsRow (by decide) h.1 (by decide) h.2

theorem EncodeFitsRow.quantize (c : Nat) : EncodeFitsRow.Statement (.quantize c) := by
  intro h
  have hc : c < 16 := by simpa [Instr.WellFormed, Instr.wellFormed] using h
  exact commandWord_fitsRow (by decide) hc (by decide) (by decide)

theorem EncodeFitsRow.formatLed : EncodeFitsRow.Statement .formatLed := fun _ => by decide

end Sys2Proof.Laws
end

