-- ==== Sys2Proof/Tests/Slice0.lean ====
section
/-!
SUPPORT. Tests on fixed values, each expected value taken from spec/95_test_vectors.md or from the
opcode map (30_encoding.md R75), and for every statement with hypotheses a witness that meets them.
-/

namespace Sys2Proof.Tests

open Sys2Proof Sys2Proof.Machine

/-! ### Helpers -/

/-- A record with amplitude and frequency 1.0 and every other float 0. -/
def unitParams (sh : Shape) (m : EvalMode) : Params :=
  { Config.zeroParams with amplitude := fOne, frequency := fOne, shape := sh, mode := m }

/-- A build of one channel and two points (L3-2). -/
def smallBuild (p : Params) : Build :=
  { channels := 1, points := 2, normMin := fNegOne, normMax := fOne, initParams := [p], initSeed := [7] }

/-- The reset state of the small build. -/
def small (sh : Shape) (m : EvalMode) : State := State.resetOf (smallBuild (unitParams sh m))

/-- The state after an outcome that is a next state. -/
def after (o : Host.Outcome State Fault Refusal) : State :=
  match o with
  | .next s => s
  | .fault _ => State.reset
  | .refused _ => State.reset

/-- The state after one command. -/
def run (i : Instr) (s : State) : State := after (runAction (doCommand i) s)

/-- Change channel 0. -/
def onChan0 (f : Channel → Channel) (s : State) : State := s.setChan 0 (f (s.chan 0))

/-! ### Well-formedness: an ill-formed term for each check -/

theorem test_map_channel_16_refused : (Instr.map 16 .lane).wellFormed = false := by decide
theorem test_genUpdatePoint_channel_16_refused : (Instr.genUpdatePoint 16 0).wellFormed = false := by
  decide
theorem test_genUpdatePoint_index_16384_refused :
    (Instr.genUpdatePoint 0 16384).wellFormed = false := by decide
theorem test_genUpdate_channel_16_refused : (Instr.genUpdate 16).wellFormed = false := by decide
theorem test_genReset_channel_16_refused : (Instr.genReset 16).wellFormed = false := by decide
theorem test_genMask_channel_16_refused : (Instr.genMask 16 0).wellFormed = false := by decide
theorem test_genMask_index_16384_refused : (Instr.genMask 0 16384).wellFormed = false := by decide
theorem test_quantize_channel_16_refused : (Instr.quantize 16).wellFormed = false := by decide

/-! ### Decoding: words written out from 30_encoding.md R75 -/

theorem test_decode_update : decode 0x01000000#32 = .ok .update := by decide
theorem test_decode_treset : decode 0x02000000#32 = .ok .treset := by decide
theorem test_decode_map_lane : decode 0x03200000#32 = .ok (.map 2 .lane) := by decide
theorem test_decode_map_led : decode 0x03110000#32 = .ok (.map 1 .led) := by decide
theorem test_decode_clear : decode 0x04000000#32 = .ok .clear := by decide
theorem test_decode_finalize_little : decode 0x05000000#32 = .ok (.finalize .little) := by decide
theorem test_decode_finalize_big : decode 0x05010000#32 = .ok (.finalize .big) := by decide
theorem test_decode_genUpdatePoint : decode 0x10500003#32 = .ok (.genUpdatePoint 5 3) := by decide
theorem test_decode_genUpdate : decode 0x11000000#32 = .ok (.genUpdate 0) := by decide
theorem test_decode_genReset : decode 0x12F00000#32 = .ok (.genReset 15) := by decide
theorem test_decode_genMask : decode 0x13003FFF#32 = .ok (.genMask 0 16383) := by decide
theorem test_decode_quantize : decode 0x20400000#32 = .ok (.quantize 4) := by decide
theorem test_decode_formatLed : decode 0x21000000#32 = .ok .formatLed := by decide
theorem test_decode_reserved_opcodes :
    [0x00000000#32, 0x06000000#32, 0x14000000#32, 0x1F000000#32, 0x22000000#32, 0xFF000000#32].all
      (fun w => decode w == .error .reservedOpcode) = true := by decide
/-- The must-be-zero bits of R76, one word for each field. -/
theorem test_decode_must_be_zero :
    [0x01000001#32, 0x01100000#32, 0x03020000#32, 0x03000001#32, 0x05100000#32, 0x10008000#32,
      0x10010000#32, 0x11000001#32, 0x20000001#32, 0x21100000#32].all
      (fun w => decode w == .error .mustBeZero) = true := by decide
theorem test_decodeTableWord : decodeTableWord 32 0x13000002 = some (.genMask 0 2) := by decide

/-! ### One step on a small state (95_test_vectors.md) -/

/-- L3-2 line 2: Sawtooth gives -1.0 and 0.0, and TIME is 0.5. -/
theorem test_update :
    let s := run .update (small .sawtooth .dynamic)
    (s.chan 0).raw = [0xBF800000#32, 0x00000000#32] ∧ (s.chan 0).time = 0x3F000000#32 := by
  decide +kernel

/-- L1-6: TRESET rewinds the clock and leaves RAW. -/
theorem test_treset :
    let s := run .treset (onChan0 (fun ch => { ch with time := 0x3F400000#32, raw := [0xBF800000#32, 0#32] })
      (small .sawtooth .dynamic))
    (s.chan 0).raw = [0xBF800000#32, 0x00000000#32] ∧ (s.chan 0).time = 0x00000000#32 := by
  decide +kernel

/-- L3-2 line 3. -/
theorem test_map : (run (.map 0 .lane) (onChan0 (fun ch => { ch with raw := [0xBF800000#32, 0#32] })
    (small .sawtooth .dynamic))).mapped = [0x00000000#32, 0x0000007F#32] := by decide +kernel

/-- MAP of an absent channel changes nothing (R111). -/
theorem test_map_absent : run (.map 1 .led) (small .sawtooth .dynamic) = small .sawtooth .dynamic := by
  decide +kernel

/-- L3-2 lines 4 to 7. -/
theorem test_finalize_big : (run (.finalize .big)
    { small .sawtooth .dynamic with mapped := [0x00000000#32, 0x0000007F#32] }).mapped =
    [0x000000E0#32, 0x7F0000E0#32] := by decide +kernel

theorem test_finalize_big_twice : (run (.finalize .big)
    { small .sawtooth .dynamic with mapped := [0x000000E0#32, 0x7F0000E0#32] }).mapped =
    [0xE00000E0#32, 0xE00000FF#32] := by decide +kernel

theorem test_clear : (run .clear
    { small .sawtooth .dynamic with mapped := [0x000000E0#32, 0x7F0000E0#32] }).mapped =
    [0x00000000#32, 0x00000000#32] := by decide +kernel

/-- L3-3 line 3: the stale cache, RESULT 0. -/
theorem test_genUpdatePoint_stale :
    (run (.genUpdatePoint 0 1) { small .sawtooth .inPlace with argT := 0x3E800000#32 }).result =
      0x00000000#32 := by decide +kernel

/-- L3-3 line 4: index 0 evaluates and is cached. -/
theorem test_genUpdatePoint_zero :
    let s := run (.genUpdatePoint 0 0) { small .sawtooth .inPlace with argT := 0x3E800000#32 }
    s.result = 0xBF000000#32 ∧ (s.chan 0).cache = 0xBF000000#32 := by decide +kernel

/-- L3-3 line 9: the broadcast samples. -/
theorem test_genUpdate :
    ((run (.genUpdate 0) { small .sawtooth .inPlace with argT := 0x3E800000#32 }).chan 0).samples =
      [0xBF000000#32, 0xBF000000#32] := by decide +kernel

/-- L3-3 line 10: samples and flags zeroed, the cache kept. -/
theorem test_genReset :
    let s := run (.genReset 0) (onChan0 (fun ch => { ch with
      samples := [0xBF000000#32, 0xBF000000#32], mask := [false, true], cache := 0xBF000000#32 })
        (small .sawtooth .inPlace))
    (s.chan 0).samples = [0x00000000#32, 0x00000000#32] ∧ (s.chan 0).mask = [false, false] ∧
      (s.chan 0).cache = 0xBF000000#32 := by decide +kernel

/-- L3-3 line 8. -/
theorem test_genMask : ((run (.genMask 0 1) (small .sine .dynamic)).chan 0).mask = [false, true] := by
  decide +kernel

/-- L3-3 line 7: a missing channel. -/
theorem test_genMask_notfound : (run (.genMask 5 0) (small .sine .dynamic)).notfound = true := by
  decide +kernel

/-- L3-4 line 8: -0.5 is code 0x3F, in lane 3. -/
theorem test_quantize :
    (run (.quantize 3) { small .sine .dynamic with argValue := 0xBF000000#32 }).result =
      0x3F000000#32 := by decide +kernel

/-- L3-4 line 9: no lane 4. -/
theorem test_quantize_lane_4 :
    (run (.quantize 4) { small .sine .dynamic with argValue := 0xBF000000#32, result := 5#32 }).result =
      0x00000000#32 := by decide +kernel

/-- L3-4 line 10. -/
theorem test_formatLed :
    (run .formatLed { small .sine .dynamic with argRgbb := 0x4A102030#32 }).result =
      0xEA102030#32 := by decide +kernel

/-- L2-20: a legal SHAPE code is stored, an illegal one kept out with MODE stored. -/
theorem test_shapeMode :
    shapeModeWord (writeShapeMode Config.zeroParams 0x103#32) = 0x00000103#32 ∧
    shapeModeWord (writeShapeMode (unitParams .sawtooth .inPlace) 0x107#32) = 0x00000103#32 ∧
    shapeModeWord (writeShapeMode (unitParams .sawtooth .inPlace) 0x006#32) = 0x00000003#32 := by
  decide

/-- A word written to `G.CMD` is run by the next step. -/
theorem test_withFetchWord :
    after (step ((small .sine .dynamic).withFetchWord 32 0x06000000)) =
      { small .sine .dynamic with badcmd := true } := by decide +kernel

/-! ### Witnesses: states and operands that meet the hypotheses of each statement -/

/-- Reset with a command word as the next transaction. -/
def withCommand (w : Nat) : State := State.reset.withFetchWord 32 w

/-- Reset with one transaction waiting. -/
def withEvents (es : List HostEvent) : State := { State.reset with pending := es }

/-- Reset with channel 2 InPlace. -/
def inPlace2 : State :=
  State.reset.setChan 2 { State.reset.chan 2 with params := unitParams .sawtooth .inPlace }

/-- Reset with channel 2 disabled. -/
def disabled2 : State := State.reset.setChan 2 { State.reset.chan 2 with en := false }

theorem witness_DecodeOfEncodeIsTheCommand :
    (Instr.map 15 .led).WellFormed ∧ (Instr.genUpdatePoint 15 16383).WellFormed ∧
      (Instr.genMask 0 0).WellFormed := by decide

theorem witness_EncodeOfDecodeIsTheWord :
    decode 0x10F03FFF#32 = .ok (.genUpdatePoint 15 16383) := by decide

theorem witness_DecodeAcceptsExactlyTheOpcodeRows : decode 0x05010000#32 = .ok (.finalize .big) := by
  decide

theorem witness_StepRunsTheWrittenCommand :
    (withCommand 0x20300000).pending = [.write 0x000008#24 (.word 0x20300000#32)] ∧
      decode 0x20300000#32 = .ok (.quantize 3) := by decide

theorem witness_ReservedWordSetsBadcmdOnly :
    (withCommand 0x06000000).pending = [.write 0x000008#24 (.word 0x06000000#32)] ∧
      ∀ r ∈ opRows, matchesRow 0x06000000#32 r = false := by decide

theorem witness_ReservedWordSetsBadcmdOnly_opcodes :
    [0x00FFFFFF#32, 0x06000000#32, 0x0F000000#32, 0x14000000#32, 0x1F000000#32, 0x22000000#32,
      0xFF000000#32].map (fun w : Word => (w >>> 24).toNat) = [0x00, 0x06, 0x0F, 0x14, 0x1F, 0x22, 0xFF] := by
  decide

theorem witness_ReservedWordSetsBadcmdOnly_zeroBits : opRow .update ∈ opRows ∧
    0x01000001#32 >>> 24 = (opRow .update).value >>> 24 ∧
      0x01000001#32 &&& (opRow .update).mask &&& 0x00FFFFFF#32 ≠ 0#32 := by decide

theorem witness_BadcmdIsSetByExactlyOneCause : (withCommand 0x06000000).badcmd = false := by decide

theorem witness_ReadsAreIdempotent :
    (withEvents [.read 0x010002#24 .half, .read 0x010002#24 .half]).pending =
      .read 0x010002#24 .half :: .read 0x010002#24 .half :: [] := by decide

theorem witness_ResetPulseGivesTheResetState :
    (withEvents [.reset, .read 0x000004#24 .word]).pending =
      .reset :: [.read 0x000004#24 .word] := by decide

theorem witness_ResetValuesAreTheTables : Config.defaultBuild.wf = true ∧
    3 < Config.defaultBuild.points ∧ 2 < Config.defaultBuild.channels := by decide +kernel

/-- The largest build, and one with a wider range. -/
theorem witness_ResetOfEveryBuildMeetsTheInvariant :
    (smallBuild Config.zeroParams).wf = true ∧
      Build.wf { channels := 16, points := 16384, normMin := 0xC2C80000#32, normMax := 0x42C80000#32
                 initParams := List.replicate 16 Config.zeroParams
                 initSeed := List.replicate 16 0 } = true := by decide +kernel

theorem witness_EveryStepKeepsTheSizes :
    (withCommand 0x02000000).Inv ∧ ∃ t, step (withCommand 0x02000000) = .next t :=
  ⟨by decide +kernel, _, rfl⟩

/-- The reset state meets the hypotheses of every statement about a sized state and a channel or index
of the build, at the last of each, and those about a state whose first three channels are enabled. -/
theorem witness_sized_state : State.reset.Inv ∧ 2 < State.reset.build.channels ∧
    3 < State.reset.build.points ∧ 15 < 4 * State.reset.build.points ∧ 14 % 2 = 0 ∧
    3 ≤ State.reset.build.channels ∧ (State.reset.chan 0).en = true ∧
    (State.reset.chan 1).en = true ∧ (State.reset.chan 2).en = true := by decide +kernel

theorem witness_IllegalOrEmptyAccessDoesNothing :
    (withEvents [.read 0x010001#24 .half]).pending = [.read 0x010001#24 .half] ∧
      readLegal 0x010001#24 .half = false ∧ targetOf State.reset.build 0x000024#24 = .empty ∧
      readLegal 0x000024#24 .word = true ∧ targetOf State.reset.build 0x010010#24 = .empty ∧
      (withEvents [.write 0x010000#24 (.word 1#32)]).pending = [.write 0x010000#24 (.word 1#32)] ∧
      writeLegal 0x010000#24 .word = false ∧ writeLegal 0x000008#24 .byte = false := by decide

/-- The address map of three channels and four points on both sides of each boundary. -/
theorem witness_IllegalOrEmptyAccessDoesNothing_map :
    [0x000020#24, 0x001224#24, 0x01000F#24, 0x12000C#24, 0x22000C#24, 0x32000C#24].all
      (fun a => targetOf Config.defaultBuild a != .empty) = true ∧
    [0x000024#24, 0x000FFC#24, 0x001228#24, 0x001300#24, 0x002000#24, 0x00FFFC#24, 0x010010#24,
      0x01FFFF#24, 0x020000#24, 0x0FFFFF#24, 0x120010#24, 0x130000#24, 0x230000#24, 0x3FFFFF#24,
      0x400000#24, 0xFFFFFF#24].all (fun a => targetOf Config.defaultBuild a == .empty) = true := by
  decide +kernel

theorem witness_RegisterNamesNameTheirRegisters : (15 : Nat) < 16 ∧ 2 < Config.defaultBuild.channels ∧
    ¬ 3 < Config.defaultBuild.channels := by decide

theorem witness_ShapeModeIsWriteAnyReadLegal : State.reset.Inv ∧ 2 < State.reset.build.channels ∧
    (0xFFFFFFFD#32).toNat % 8 ≤ 5 ∧ 6 ≤ (0x00000106#32).toNat % 8 ∧
    Config.defaultBuild.wf = true ∧ Config.defaultBuild.initParams[2]? = some Config.zeroParams := by
  decide +kernel

theorem witness_AbsentChannelWindowsAreEmpty : State.reset.Inv ∧ State.reset.build.channels ≤ 3 ∧
    (3 : Nat) ≤ 15 ∧ (0xFF : Nat) < 0x100 := by decide +kernel

/-- A record whose theta at time, step and index 0 is its phase. -/
def atPhase (sh : Shape) (amp off freq ph : F32) : Params :=
  { amplitude := amp, frequency := freq, phase := ph, offset := off, pdt := posZero, shape := sh
    mode := .dynamic }

/-- Theta at time, step and index 0, as the statements about shapes bind it. -/
def thetaAtZero (freq ph : F32) : F32 :=
  fadd (fmul (fmul 0x40C90FDB#32 freq) (fadd posZero (fmul (i2f 0) posZero))) ph

/-- A finite theta, both zeros, an infinity and a NaN. -/
theorem witness_theta : thetaAtZero posZero 0x3F000000#32 = 0x3F000000#32 ∧
    thetaAtZero posZero posZero = posZero ∧ thetaAtZero negZero negZero = negZero ∧
    thetaAtZero posZero 0x7F800000#32 = 0x7F800000#32 ∧ thetaAtZero posZero qNaN = qNaN := by
  decide +kernel

/-- For each clause of the Sine statement an amplitude, an offset and a theta. -/
theorem witness_UnitSineIsWithinTolerance :
    (atPhase .sine fOne posZero posZero 0x3F000000#32).shape = .sine ∧
    isFinite 0x3F000000#32 = true ∧ isFinite 0x7F800000#32 = false ∧ isFinite qNaN = false ∧
    isFinite fOne = true ∧ isNaN posZero = false ∧ posZero ≠ 0x80000000#32 ∧
    isInf 0xFF800000#32 = true := by decide +kernel

/-- The zero product: `SIN(+0.0) = +0.0` (S4 of R9). -/
theorem witness_SquareFollowsTheExactSine_zero : isFinite 0x00000000#32 = true ∧
    isNaN (fmul fOne (Config.sinUnit.apply 0x00000000#32)) = false ∧
      isZero (fmul fOne (Config.sinUnit.apply 0x00000000#32)) = true := by
  have h : Config.sinUnit.apply 0x00000000#32 = 0x00000000#32 := Config.sinUnit.zero.1
  rw [h]
  decide +kernel

/-- The sine of the binary32 0.5 is at least a quarter. -/
theorem sin_half_ge : (1 : ℝ) / 4 ≤ Real.sin ((ratValue 0x3F000000#32 : ℚ) : ℝ) := by
  have h : ratValue 0x3F000000#32 = 1 / 2 := by
    have : units 0x3F000000#32 = 2 ^ 148 := by decide
    unfold ratValue; rw [this]; norm_num
  rw [h]
  have := Real.sin_gt_sub_cube (show (0 : ℝ) < 1 / 2 by norm_num)
  push_cast
  norm_num at this ⊢
  linarith

/-- A unit's sine of 0.5 is no zero. -/
theorem sinUnit_half_ne : isZero (Config.sinUnit.apply 0x3F000000#32) = false := by
  by_contra h
  have hz : ratValue (Config.sinUnit.apply 0x3F000000#32) = 0 :=
    (ratValue_eq_zero_iff _).2 (by simpa using h)
  have ha := Config.sinUnit.accurate 0x3F000000#32 (by decide)
  have hs := sin_half_ge
  rw [hz, abs_le] at ha
  norm_num at ha
  linarith [ha.1, ha.2]

/-- A unit's sine of 0.5 is finite. -/
theorem sinUnit_half_finite : isFinite (Config.sinUnit.apply 0x3F000000#32) = true := by
  obtain ⟨h1, h2⟩ := Config.sinUnit.bounded 0x3F000000#32 (by decide)
  generalize Config.sinUnit.apply 0x3F000000#32 = x at *
  have k1 : orderKey fOne = 0x3F800000 := by decide
  have k2 : orderKey fNegOne = -0x3F800000 := by decide
  simp only [fge, Bool.and_eq_true, decide_eq_true_eq, k1, k2] at h1 h2
  unfold orderKey at h1 h2
  simp only [isFinite, decide_eq_true_eq]
  split at h1 <;> simp_all <;> omega

/-- A quotient of at least one unit does not round to zero. -/
theorem roundMag_pos (n d : Nat) (h : 1 ≤ n / d) : 0 < roundMag n d := by
  unfold roundMag roundHalfEven
  have h1 : 2 ^ (Nat.log2 (n / d) - 23) ≤ n / d :=
    (Nat.pow_le_pow_right (by norm_num) (Nat.sub_le _ _)).trans (Nat.log2_self_le (by omega))
  have h2 : 1 ≤ n / (d * 2 ^ (Nat.log2 (n / d) - 23)) := by
    rw [← Nat.div_div_eq_div_mul]
    exact (Nat.one_le_div_iff (by positivity)).2 h1
  simp only [lt_min_iff]
  refine ⟨?_, by norm_num⟩
  split <;> omega

/-- A nonzero product, with the signs of amplitude and exact sine agreeing for the amplitude 1.0 and
differing for -1.0. -/
theorem witness_SquareFollowsTheExactSine :
    isFinite 0x3F000000#32 = true ∧
    (∀ a ∈ [fOne, fNegOne], isNaN (fmul a (Config.sinUnit.apply 0x3F000000#32)) = false ∧
      isZero (fmul a (Config.sinUnit.apply 0x3F000000#32)) = false) ∧
    (signOf fOne = false ↔ 0 ≤ Real.sin ((ratValue 0x3F000000#32 : ℚ) : ℝ)) ∧
    ¬(signOf fNegOne = false ↔ 0 ≤ Real.sin ((ratValue 0x3F000000#32 : ℚ) : ℝ)) := by
  have hs : 0 ≤ Real.sin ((ratValue 0x3F000000#32 : ℚ) : ℝ) := le_trans (by norm_num) sin_half_ge
  have h1 : signOf fOne = false := by decide
  have h2 : signOf fNegOne = true := by decide
  refine ⟨by decide, ?_, by simp [h1, hs], by simp [h2, hs]⟩
  have hf := sinUnit_half_finite
  have hz := sinUnit_half_ne
  generalize Config.sinUnit.apply 0x3F000000#32 = x at *
  have hm : 1 ≤ magUnits x := by
    have := (units_eq_zero_iff x).not
    simp only [units, hz] at this
    by_contra h0
    have h0' : magUnits x = 0 := by omega
    simp [h0'] at this
  have hn := not_isNaN_of_isFinite hf
  have hi : isInf x = false := by
    simp only [isFinite, isInf, decide_eq_true_eq, beq_eq_false_iff_ne] at *
    omega
  have key : ∀ a, isNaN a = false → isInf a = false → magUnits a = 2 ^ 149 →
      isNaN (fmul a x) = false ∧ isZero (fmul a x) = false := by
    intro a han hai ham
    have hd : magUnits a * magUnits x / 2 ^ 149 = magUnits x := by
      rw [ham]; exact Nat.mul_div_cancel_left _ (by positivity)
    have hp := roundMag_pos (magUnits a * magUnits x) (2 ^ 149) (by rw [hd]; exact hm)
    have hle : roundMag (magUnits a * magUnits x) (2 ^ 149) ≤ 0x7F800000 := Nat.min_le_right _ _
    have hf : fmul a x = packF32 (signOf a != signOf x)
        (roundMag (magUnits a * magUnits x) (2 ^ 149)) := by
      simp only [fmul, hn, han, hi, hai, Bool.or_self, Bool.false_eq_true, if_false, roundUnits]
    rw [hf]
    generalize roundMag (magUnits a * magUnits x) (2 ^ 149) = m at *
    have hb := magBits_packF32 (signOf a != signOf x) m (by omega)
    simp only [isNaN, isZero, hb, beq_eq_false_iff_ne, decide_eq_false_iff_not]
    omega
  intro a ha
  simp only [List.mem_cons, List.not_mem_nil, or_false] at ha
  rcases ha with rfl | rfl <;> exact key _ (by decide) (by decide) (by decide)

/-- The three cases of the "else" branch, the last at theta `+0.0`. -/
theorem witness_SquareOfANanIsOffsetMinusOne : isNaN 0x7FC00000#32 = true ∧
    isFinite 0x7F800000#32 = false ∧ isFinite 0xFF800000#32 = false ∧
    isInf 0x7F800000#32 = true ∧ isZero (Config.sinUnit.apply 0x00000000#32) = true := by
  have h : Config.sinUnit.apply 0x00000000#32 = 0x00000000#32 := Config.sinUnit.zero.1
  rw [h]
  decide +kernel

/-- Both zeros of theta, the largest amplitude whose double is finite and the next, and offsets of each
clause. -/
theorem witness_TriangleIsTheOffsetAtZero :
    isZero 0x00000000#32 = true ∧ isZero 0x80000000#32 = true ∧
      isFinite (fmul 0x40000000#32 0x7EFFFFFF#32) = true ∧
      isFinite (fmul 0x40000000#32 0x7F000000#32) = false ∧ isFinite 0x7F000000#32 = true ∧
      isNaN posZero = false ∧ posZero ≠ 0x80000000#32 ∧ isFinite posZero = true ∧
      isFinite 0x3F000000#32 = true ∧ isFinite 0xFF800000#32 = false := by
  decide +kernel

/-- A finite step, at both zeros. -/
theorem witness_SawtoothAndBounceVectors : isFinite 0x3E800000#32 = true ∧ isFinite posZero = true ∧
    isFinite negZero = true ∧ (atPhase .bounce fOne posZero fOne posZero).shape = .bounce ∧
    (atPhase .sawtooth fOne posZero fOne posZero).shape = .sawtooth := by decide

/-- A non-empty interval, and an empty one with an offset that is no NaN and one that is. -/
theorem witness_NoiseStaysInItsInterval :
    flt fHalf (fadd fHalf fOne) = true ∧ flt fHalf (fadd fHalf fNegOne) = false ∧
      isNaN fHalf = false ∧ flt qNaN (fadd qNaN fOne) = false ∧ isNaN qNaN = true := by decide +kernel

theorem witness_DrawsAreCounted : (1 : Nat) ≤ 1 := by decide

theorem witness_GenUpdatePointEvaluatesOneSample : State.reset.Inv ∧ 2 < State.reset.build.channels ∧
    State.reset.build.points ≤ 4 ∧ 3 < State.reset.build.points ∧
    caching (State.reset.chan 2).params = false ∧ inPlace2.Inv ∧ 1 < inPlace2.build.points ∧
    caching (inPlace2.chan 2).params = true := by decide +kernel

theorem witness_GenMaskTogglesOneFlag : State.reset.Inv ∧ 2 < State.reset.build.channels ∧
    3 < State.reset.build.points ∧ State.reset.build.points ≤ 4 := by decide +kernel

theorem witness_MissingGeneratorSetsNotfoundOnly : State.reset.build.channels ≤ 3 := by decide

theorem witness_MapComposesAnEnabledChannel : State.reset.Inv ∧ State.reset.build.channels ≤ 3 ∧
    2 < State.reset.build.channels ∧ (State.reset.chan 2).en = true ∧ disabled2.Inv ∧
    (disabled2.chan 2).en = false := by decide +kernel

/-- A legal build of the default range, a NaN and values that are none, and a value below the upper
end whose difference reaches the span. -/
theorem witness_QuantizerStaysInRange : Config.defaultBuild.wf = true ∧
    Config.defaultBuild.normMin = 0xBF800000#32 ∧ Config.defaultBuild.normMax = 0x3F800000#32 ∧
    isNaN qNaN = true ∧ isNaN 0x7F800000#32 = false ∧ isNaN 0x80000000#32 = false ∧
    fsub (clampNorm Config.defaultBuild 0x3F7FFFFF#32) Config.defaultBuild.normMin =
      fsub Config.defaultBuild.normMax Config.defaultBuild.normMin := by decide +kernel

theorem witness_QuantizeWritesTheLaneCode : (4 : Nat) ≤ 4 ∧ (3 : Nat) < 4 := by decide

theorem witness_EncodersComposeOneLedWord : (3 : Nat) ≤ 3 := by decide

/-- For each kind of register that a `Blind` statement forgets, two states that differ in it alone. -/
theorem witness_Blind :
    (forgetFlags State.reset = forgetFlags { State.reset with badcmd := true, notfound := true } ∧
      State.reset ≠ { State.reset with badcmd := true, notfound := true }) ∧
    (forgetPdt State.reset = forgetPdt (onChan0 (writeChannel .pdt fOne) State.reset) ∧
      State.reset ≠ onChan0 (writeChannel .pdt fOne) State.reset) ∧
    (forgetMasks State.reset = forgetMasks (onChan0 (·.setMask 3 true) State.reset) ∧
      State.reset ≠ onChan0 (·.setMask 3 true) State.reset) ∧
    (forgetEnables State.reset = forgetEnables disabled2 ∧ State.reset ≠ disabled2) := by
  decide +kernel

theorem witness_EnableIsReadByMapAlone : ∀ c e, Instr.update ≠ .map c e := by
  intro c e h
  cases h

/-- QUANTIZE of 1.0 changes RESULT from its reset value. -/
theorem witness_ResultIsWrittenByThreeCommands :
    (run (.quantize 0) { State.reset with argValue := fOne }).result ≠ State.reset.result := by
  decide +kernel

theorem witness_ArithmeticRoundsToNearest : isFinite 0x3DCCCCCD#32 = true ∧
    isFinite (fadd 0x3DCCCCCD#32 fOne) = true ∧ isFinite (fmul 0x3DCCCCCD#32 fPi) = true ∧
    isZero fPi = false ∧ isFinite (fdiv 0x3DCCCCCD#32 fPi) = true := by decide +kernel

theorem witness_FmodIsExact : isFinite 0xC1200000#32 = true ∧ isFinite fPi = true ∧
    isZero fPi = false := by decide

theorem witness_FloorIsExact : isFinite 0xBF000000#32 = true := by decide

end Sys2Proof.Tests
end

/-!
Proofs of the statements of the family 10_state.md. First the rules that other proofs can use too: what
a loop, a GEN_* command and a port access keep or answer; then the sizes of the arrays, RESULT, the
registers and the reset values.
-/

namespace Sys2Proof.Machine

/-! ### What an operation keeps -/

/-- A loop keeps every reading `π` of the state that each round keeps. -/
theorem forUpto_keeps {α β : Type} (π : α → β) {n : Nat} {body : Nat → α → α}
    (round : ∀ i x, π (body i x) = π x) (a : α) : π (forUpto n body a) = π a :=
  forUpto_induct (fun _ x => π x = π a) rfl fun i _ x ih => (round i x).trans ih

/-- A GEN_* command keeps every reading `π` of the state that its body and a write of NOTFOUND keep. -/
theorem onGenerator_keeps {β : Type} (π : State → β) {body : State → State}
    (flag : ∀ s b, π (s.setNotfound b) = π s) (run : ∀ s, π (body s) = π s) (s : State) (c : Nat) :
    π (onGenerator s c body) = π s := by
  rcases onGenerator_cases s c body with ⟨-, h⟩ | ⟨-, h⟩
  · rw [h, flag]
  · rw [h, run, flag]

/-- The outcome is a next state on which `π` reads as it did on `s`. -/
def Keeps {β : Type} (π : State → β) (s : State) (o : Host.Outcome State Fault Refusal) : Prop :=
  ∃ t, o = .next t ∧ π t = π s

theorem Keeps.next {β : Type} {π : State → β} {s t : State} (h : π t = π s) :
    Keeps π s (.next t) :=
  ⟨t, rfl, h⟩

theorem Keeps.eq_of_next {β : Type} {π : State → β} {s t : State}
    {o : Host.Outcome State Fault Refusal} (h : Keeps π s o) (ht : o = .next t) : π t = π s := by
  obtain ⟨u, hu, hπ⟩ := h
  obtain rfl : u = t := Host.Outcome.next.inj (hu.symm.trans ht)
  exact hπ

/-! ### Accesses on the host port -/

/-- A write the host issues is performed at once, with the last answer cleared. -/
theorem transact_write (a : Addr) (v : PortData) (s : State) :
    transact (.write a v) s = busWrite a v { s with reply := none } := rfl

/-- A legal 32-bit write of the host is a write to the target of its address. -/
theorem transact_write_word {a : Addr} {t : Target} {s : State} (legal : writeLegal a .word = true)
    (target : targetOf s.build a = t) (w : Word) :
    transact (.write a (.word w)) s = writeTarget t w { s with reply := none } := by
  simp [transact_write, busWrite, legal, target]

/-- A write to an address that names nothing is ignored, of every size (20_memory.md R59). -/
theorem busWrite_of_empty {a : Addr} {s : State} (target : targetOf s.build a = .empty)
    (v : PortData) : busWrite a v s = .next s := by
  cases v with
  | byte _ => rfl
  | half _ => rfl
  | word w => simp [busWrite, target, writeTarget]

theorem busRead_of_legal {a : Addr} {n : AccessSize} {t : Target} {s : State}
    (legal : readLegal a n = true) (target : targetOf s.build a = t) :
    busRead s a n = readTarget s n t := by
  simp [busRead, legal, target]

/-- A read of an address that names nothing returns 0, legal or not (20_memory.md R59). -/
theorem busRead_of_empty {a : Addr} {s : State} (target : targetOf s.build a = .empty)
    (n : AccessSize) : busRead s a n = zeroData n := by
  simp [busRead, target, readTarget]

/-! ### The channel windows -/

/-- The region of the channel registers (20_memory.md R55). -/
theorem regionOf_channelRegs {a : Addr} (lo : 0x001000 ≤ a.toNat) (hi : a.toNat < 0x002000) :
    regionOf a = .channelRegs := by
  simp only [regionOf]
  rw [if_neg (by omega), if_pos hi]

theorem targetOf_channelRegs {a : Addr} (b : Build) (lo : 0x001000 ≤ a.toNat)
    (hi : a.toNat < 0x002000) : targetOf b a = channelTarget b (a.toNat - 0x001000) := by
  simp only [targetOf, regionOf_channelRegs lo hi]

/-- The window of a channel past the build names nothing, aligned or not (20_memory.md R57). -/
theorem channelTarget_of_absent {b : Build} {n : Nat} (h : b.channels ≤ n / 0x100) :
    channelTarget b n = .empty := by
  unfold channelTarget
  cases channelRegAt (n % 0x100) with
  | none => rfl
  | some r => exact if_neg (by omega)

/-- Offset `off` of the window of channel `j`, as a number. -/
theorem channelWindow_toNat {j off : Nat} (hj : j < 16) (hoff : off < 0x100) :
    (BitVec.ofNat 24 (0x001000 + 0x100 * j + off)).toNat = 0x001000 + 0x100 * j + off := by
  rw [BitVec.toNat_ofNat]
  omega

theorem targetOf_channelWindow (b : Build) {j off : Nat} (hj : j < 16) (hoff : off < 0x100) :
    targetOf b (BitVec.ofNat 24 (0x001000 + 0x100 * j + off)) =
      channelTarget b (0x100 * j + off) := by
  have h := channelWindow_toNat hj hoff
  rw [targetOf_channelRegs b (by omega) (by omega), h, Nat.add_assoc, Nat.add_sub_cancel_left]

theorem channelOffset_lt (r : ChannelReg) : channelOffset r < 0x100 := by cases r <;> decide

theorem channelOffset_aligned (r : ChannelReg) : channelOffset r % 4 = 0 := by cases r <;> rfl

@[simp] theorem channelRegAt_channelOffset (r : ChannelReg) :
    channelRegAt (channelOffset r) = some r := by
  cases r <;> rfl

/-- The address of a register of a channel of the build names it (20_memory.md R57). -/
theorem targetOf_channelReg {b : Build} {j : Nat} (hj : j < 16) (hb : j < b.channels)
    (r : ChannelReg) : targetOf b (regAddr (.channel j r)) = .channelReg j r := by
  have hr := channelOffset_lt r
  have hwindow : (0x100 * j + channelOffset r) / 0x100 = j := by omega
  have hoffset : (0x100 * j + channelOffset r) % 0x100 = channelOffset r := by omega
  rw [regAddr, targetOf_channelWindow b hj hr]
  simp [channelTarget, hwindow, hoffset, hb]

/-- A register of a channel stands in the region of the channel registers, word aligned. -/
theorem channelReg_wordAligned {j : Nat} (hj : j < 16) (r : ChannelReg) :
    regionOf (regAddr (.channel j r)) = .channelRegs ∧
      wordAligned (regAddr (.channel j r)) .word = true := by
  have hr := channelOffset_lt r
  have haligned := channelOffset_aligned r
  have h : (regAddr (.channel j r)).toNat = 0x001000 + 0x100 * j + channelOffset r :=
    channelWindow_toNat hj hr
  refine ⟨regionOf_channelRegs (by omega) (by omega), ?_⟩
  simp only [wordAligned, beq_self_eq_true, Bool.true_and, beq_iff_eq]
  omega

/-- A host read of a register of a channel of the build (20_memory.md R62). -/
theorem busRead_channelReg {s : State} {j : Nat} (hj : j < 16) (hb : j < s.build.channels)
    (r : ChannelReg) :
    busRead s (regAddr (.channel j r)) .word = .word (readChannel (s.chan j) r) := by
  obtain ⟨hregion, haligned⟩ := channelReg_wordAligned hj r
  exact busRead_of_legal (by simp [readLegal, hregion, haligned]) (targetOf_channelReg hj hb r)

/-- A host write to a register of a channel of the build rewrites that channel (20_memory.md R62). -/
theorem transact_write_channelReg {s : State} {j : Nat} (hj : j < 16) (hb : j < s.build.channels)
    (r : ChannelReg) (w : Word) :
    transact (.write (regAddr (.channel j r)) (.word w)) s =
      .next { s with channels := s.channels.set j (writeChannel r w (s.chan j)), reply := none } := by
  obtain ⟨hregion, haligned⟩ := channelReg_wordAligned hj r
  exact transact_write_word (by simp [writeLegal, hregion, haligned]) (targetOf_channelReg hj hb r) w

/-- A channel of a legal build fits the CH field. -/
theorem State.Inv.channel_lt {s : State} (h : s.Inv) {j : Nat} (hj : j < s.build.channels) :
    j < 16 := by
  obtain ⟨hwf, -⟩ := (State.inv_iff s).1 h
  obtain ⟨-, hchannels, -⟩ := (Build.wf_iff s.build).1 hwf
  omega

/-! ### The sizes of the arrays (10_state.md R52) -/

/-- The sizes of the arrays of one channel. -/
structure ChannelSizes where
  /-- Elements of `SAMPLES[j]`. -/
  samples : Nat
  /-- Elements of `MASK[j]`. -/
  mask : Nat
  /-- Elements of `RAW[j]`. -/
  raw : Nat

def Channel.sizes (ch : Channel) : ChannelSizes :=
  { samples := ch.samples.length, mask := ch.mask.length, raw := ch.raw.length }

/-- The build and the size of every array: all that the invariant looks at. -/
structure Layout where
  /-- The build's parameters. -/
  build : Build
  /-- Words of `MAPPED`. -/
  mapped : Nat
  /-- The sizes of each channel. -/
  channels : List ChannelSizes

def State.layout (s : State) : Layout :=
  { build := s.build, mapped := s.mapped.length, channels := s.channels.map Channel.sizes }

/-- The invariant is a property of the layout. -/
theorem State.inv_iff_layout (s : State) : s.Inv ↔ s.layout.build.wf = true ∧
    s.layout.channels.length = s.layout.build.channels ∧ s.layout.mapped = s.layout.build.points ∧
    ∀ z ∈ s.layout.channels, z.samples = s.layout.build.points ∧
      z.mask = s.layout.build.points ∧ z.raw = s.layout.build.points := by
  simp [State.inv_iff, State.layout, Channel.sizes]

theorem State.Inv.of_layout_eq {s t : State} (hs : s.Inv) (h : t.layout = s.layout) : t.Inv := by
  rw [State.inv_iff_layout, h]
  exact (State.inv_iff_layout s).1 hs

theorem State.build_eq_of_layout_eq {s t : State} (h : t.layout = s.layout) : t.build = s.build :=
  congrArg Layout.build h

/-! The writes of one channel keep its sizes. -/

@[simp] theorem Channel.setRaw_sizes (ch : Channel) (i : Nat) (v : F32) :
    (ch.setRaw i v).sizes = ch.sizes := by
  simp [Channel.sizes]

@[simp] theorem Channel.setSample_sizes (ch : Channel) (i : Nat) (v : F32) :
    (ch.setSample i v).sizes = ch.sizes := by
  simp [Channel.sizes]

@[simp] theorem Channel.setMask_sizes (ch : Channel) (i : Nat) (b : Bool) :
    (ch.setMask i b).sizes = ch.sizes := by
  simp [Channel.sizes]

@[simp] theorem Channel.setCache_sizes (ch : Channel) (v : F32) :
    (ch.setCache v).sizes = ch.sizes := rfl

@[simp] theorem Channel.setTime_sizes (ch : Channel) (v : F32) :
    (ch.setTime v).sizes = ch.sizes := rfl

@[simp] theorem Channel.setRng_sizes (ch : Channel) (r : Nat) : (ch.setRng r).sizes = ch.sizes := rfl

@[simp] theorem Channel.setStep_sizes (ch : Channel) (v : F32) :
    (ch.setStep v).sizes = ch.sizes := rfl

@[simp] theorem Channel.setCtrl_sizes (ch : Channel) (e t : Bool) :
    (ch.setCtrl e t).sizes = ch.sizes := rfl

@[simp] theorem Channel.setParams_sizes (ch : Channel) (p : Params) :
    (ch.setParams p).sizes = ch.sizes := rfl

@[simp] theorem updatePoint_sizes (points : Nat) (ch : Channel) (t dt : F32) (i : Nat) :
    (updatePoint points ch t dt i).sizes = ch.sizes := by
  unfold updatePoint storePoint
  split_ifs <;> simp

@[simp] theorem updateAll_sizes (points : Nat) (ch : Channel) (t dt : F32) :
    (updateAll points ch t dt).sizes = ch.sizes :=
  forUpto_keeps Channel.sizes (fun i c => updatePoint_sizes points c t dt i) ch

@[simp] theorem clearSamples_sizes (points : Nat) (ch : Channel) :
    (clearSamples points ch).sizes = ch.sizes :=
  forUpto_keeps Channel.sizes (fun i c => by simp) ch

@[simp] theorem toggleMask_sizes (points : Nat) (ch : Channel) (i : Nat) :
    (toggleMask points ch i).sizes = ch.sizes := by
  unfold toggleMask
  split_ifs <;> simp

@[simp] theorem tickChannel_sizes (points : Nat) (ch : Channel) :
    (tickChannel points ch).sizes = ch.sizes := by
  have hpoints : (tickPoints points ch).sizes = ch.sizes :=
    forUpto_keeps Channel.sizes (fun i c => by simp [tickPoint]) ch
  unfold tickChannel advanceTime
  split_ifs <;> simp [hpoints]

@[simp] theorem writeChannel_sizes (r : ChannelReg) (w : Word) (ch : Channel) :
    (writeChannel r w ch).sizes = ch.sizes := by
  cases r <;> simp [writeChannel, writeCtrl]

/-! The writes of the state keep its layout. -/

/-- A channel is put back with the sizes it had. Past the last channel nothing is written. -/
theorem State.setChan_layout {s : State} {j : Nat} {ch : Channel}
    (h : ch.sizes = (s.chan j).sizes) : (s.setChan j ch).layout = s.layout := by
  have hsizes : (s.channels.set j ch).map Channel.sizes = s.channels.map Channel.sizes := by
    apply List.ext_getElem?
    intro k
    rw [List.map_set, List.getElem?_set, List.length_map]
    split_ifs with hk hj
    · subst hk
      simp [h, State.chan, hj]
    · simp; omega
    · rfl
  simp [State.layout, hsizes]

@[simp] theorem State.setMapped_layout (s : State) (i : Nat) (w : Word) :
    (s.setMapped i w).layout = s.layout := by
  simp [State.layout]

@[simp] theorem State.setResult_layout (s : State) (w : Word) :
    (s.setResult w).layout = s.layout := rfl

@[simp] theorem State.setBadcmd_layout (s : State) (b : Bool) :
    (s.setBadcmd b).layout = s.layout := rfl

@[simp] theorem State.setNotfound_layout (s : State) (b : Bool) :
    (s.setNotfound b).layout = s.layout := rfl

/-- No command changes a size, whatever the state. -/
theorem exec_keeps_layout (i : Instr) (s : State) : Keeps State.layout s (exec i s) := by
  have generator : ∀ (c : Nat) (body : State → State), (∀ s, (body s).layout = s.layout) →
      Keeps State.layout s (.next (onGenerator s c body)) := fun c body run =>
    .next (onGenerator_keeps State.layout State.setNotfound_layout run s c)
  cases i with
  | update =>
    exact .next (forUpto_keeps State.layout (fun j s => s.setChan_layout (tickChannel_sizes _ _)) s)
  | treset =>
    exact .next (forUpto_keeps State.layout (fun j s => s.setChan_layout (Channel.setTime_sizes _ _)) s)
  | map c e =>
    refine .next ?_
    split_ifs
    · exact forUpto_keeps State.layout (fun i s => s.setMapped_layout i _) s
    · rfl
  | clear => exact .next (forUpto_keeps State.layout (fun i s => s.setMapped_layout i _) s)
  | finalize d => exact .next (forUpto_keeps State.layout (fun i s => s.setMapped_layout i _) s)
  | genUpdatePoint c x =>
    exact generator c _ fun s => s.setChan_layout (updatePoint_sizes _ _ _ _ _)
  | genUpdate c => exact generator c _ fun s => s.setChan_layout (updateAll_sizes _ _ _ _)
  | genReset c => exact generator c _ fun s => s.setChan_layout (clearSamples_sizes _ _)
  | genMask c x => exact generator c _ fun s => s.setChan_layout (toggleMask_sizes _ _ _)
  | quantize c => exact .next (s.setResult_layout _)
  | formatLed => exact .next (s.setResult_layout _)

theorem runCommand_keeps_layout (w : Word) (s : State) :
    Keeps State.layout s (runCommand w s) := by
  cases h : decode w with
  | ok i => rw [runCommand_ok s h]; exact exec_keeps_layout i s
  | error e => rw [runCommand_error s h]; exact .next (s.setBadcmd_layout true)

theorem writeGlobal_keeps_layout (r : GlobalReg) (w : Word) (s : State) :
    Keeps State.layout s (writeGlobal r w s) := by
  cases r with
  | cmd => exact runCommand_keeps_layout w s
  | status =>
    refine .next ?_
    unfold writeStatus
    split_ifs <;> rfl
  | config | argT | argDt | argValue | argRgbb | result | ledBrightness => exact .next rfl

/-- No host write changes a size, whatever its address and value. -/
theorem busWrite_keeps_layout (a : Addr) (v : PortData) (s : State) :
    Keeps State.layout s (busWrite a v s) := by
  cases v with
  | byte _ => exact .next rfl
  | half _ => exact .next rfl
  | word w =>
    unfold busWrite
    split_ifs
    · cases targetOf s.build a with
      | globalReg r => exact writeGlobal_keeps_layout r w s
      | channelReg j r => exact .next (s.setChan_layout (writeChannel_sizes r w _))
      | frame | raw | samples | mask | empty => exact .next rfl
    · exact .next rfl

/-- What a step does to the layout: it keeps it, or it is a reset and gives that of the reset state. -/
theorem step_layout {s t : State} (h : step s = .next t) :
    t.layout = s.layout ∨ t.layout = (State.resetOf s.build).layout := by
  cases hp : s.pending with
  | nil =>
    rw [step_idle s hp] at h
    cases h
    exact .inl rfl
  | cons e rest =>
    rw [step_perform s e rest hp] at h
    cases e with
    | read a n => cases h; exact .inl rfl
    | write a v => exact .inl ((busWrite_keeps_layout a v (s.setPort rest none)).eq_of_next h)
    | reset => cases h; exact .inr rfl

/-- The reset state of a legal build has the sizes of R52. -/
theorem resetOf_inv {b : Build} (hb : b.wf = true) : (State.resetOf b).Inv := by
  rw [State.inv_iff]
  refine ⟨hb, by simp [State.resetOf], by simp [State.resetOf], ?_⟩
  intro ch hch
  obtain ⟨j, -, rfl⟩ := List.mem_map.1 hch
  simp [Channel.resetOf, State.resetOf]

/-- Settles O14: the invariant and the build are read off the layout, which a step keeps or resets. -/
theorem everyStepKeepsTheSizes : Obligations.EveryStepKeepsTheSizes := by
  intro s t hinv hstep
  rcases step_layout hstep with h | h
  · exact ⟨hinv.of_layout_eq h, State.build_eq_of_layout_eq h⟩
  · obtain ⟨hwf, -⟩ := (State.inv_iff s).1 hinv
    exact ⟨(resetOf_inv hwf).of_layout_eq h,
      State.build_eq_of_layout_eq (s := State.resetOf s.build) h⟩

/-! ### The reset values (10_state.md R47) -/

/-- Channel `j` of the reset state. -/
theorem resetOf_channels_getElem? {b : Build} {j : Nat} (hj : j < b.channels) :
    (State.resetOf b).channels[j]? = some (Channel.resetOf b j) := by
  simp [State.resetOf, hj]

theorem chan_resetOf {b : Build} {j : Nat} (hj : j < b.channels) :
    (State.resetOf b).chan j = Channel.resetOf b j := by
  rw [State.chan, List.getD_eq_getElem?_getD, resetOf_channels_getElem? hj, Option.getD_some]

/-- The parameters of a channel at reset are those the build lists for it (00_scope.md R11). -/
theorem resetOf_params {b : Build} {j : Nat} (hj : j < b.initParams.length) :
    b.initParams[j]? = some (Channel.resetOf b j).params := by
  simp [Channel.resetOf, hj]

/-- The seed of a channel at reset is that the build lists for it (00_scope.md R10). -/
theorem resetOf_rng {b : Build} {j : Nat} (hj : j < b.initSeed.length) :
    b.initSeed[j]? = some (Channel.resetOf b j).rng := by
  simp [Channel.resetOf, hj]

/-- Every element of the buffers of a channel is zero at reset. -/
theorem resetOf_buffers {b : Build} {i : Nat} (hi : i < b.points) (j : Nat) :
    (Channel.resetOf b j).samples[i]? = some 0x00000000#32 ∧
      (Channel.resetOf b j).raw[i]? = some 0x00000000#32 ∧
      (Channel.resetOf b j).mask[i]? = some false := by
  simp [Channel.resetOf, hi, posZero]

/-- `G.STATUS` reads both flags clear at reset (10_state.md R27). -/
theorem resetOf_status (b : Build) :
    busRead (State.resetOf b) 0x000004#24 .word = .word 0x00000000#32 :=
  congrArg PortData.word
    (by decide : 0#30 ++ BitVec.ofBool false ++ BitVec.ofBool false = 0x00000000#32)

/-- `G.LED_BRIGHTNESS` reads full brightness at reset (10_state.md R44). -/
theorem resetOf_ledBrightness (b : Build) :
    busRead (State.resetOf b) 0x000020#24 .word = .word 0x0000001F#32 :=
  congrArg PortData.word (by decide : 0#27 ++ 0x1F#5 = 0x0000001F#32)

/-- Settles O11: the global items are read off the reset state, the channels by the lemmas above. -/
theorem resetValuesAreTheTables : Obligations.ResetValuesAreTheTables := by
  intro b hb
  obtain ⟨-, -, -, -, -, -, -, -, hparams, hseed⟩ := (Build.wf_iff b).1 hb
  refine ⟨rfl, resetOf_status b, rfl, rfl, rfl, rfl, rfl, rfl, rfl,
    resetOf_ledBrightness b, ?mapped, ?channel⟩
  case mapped =>
    intro i hi
    simp [State.resetOf, hi]
  case channel =>
    intro j hj
    exact ⟨Channel.resetOf b j, resetOf_channels_getElem? hj, resetOf_params (by omega),
      resetOf_rng (by omega), rfl, rfl, rfl, rfl, rfl, fun i hi => resetOf_buffers hi j⟩

/-- A register assembled from fields, as a number. -/
theorem toNat_append_eq_add {m n : Nat} (x : BitVec m) (y : BitVec n) :
    (x ++ y).toNat = x.toNat * 2 ^ n + y.toNat := by
  rw [BitVec.toNat_append, ← Nat.shiftLeft_add_eq_or_of_lt y.isLt, Nat.shiftLeft_eq]

/-! ### G.CONFIG (10_state.md R26) -/

/-- `G.CONFIG` as a number: POINTS above bit 16, CHANNELS below. -/
theorem configWord_toNat {b : Build} (hp : b.points < 65536) (hc : b.channels < 256) :
    (configWord b).toNat = 65536 * b.points + b.channels := by
  simp only [configWord, toNat_append_eq_add, BitVec.toNat_ofNat]
  omega

/-- Settles O21: the fields of `configWord`, read off its value. -/
theorem configHoldsTheSizes : Obligations.ConfigHoldsTheSizes := by
  intro s hinv
  obtain ⟨hwf, -⟩ := (State.inv_iff s).1 hinv
  obtain ⟨-, hchannels, -, hpoints, -⟩ := (Build.wf_iff s.build).1 hwf
  have hvalue : (configWord s.build).toNat = 65536 * s.build.points + s.build.channels :=
    configWord_toNat (by omega) (by omega)
  refine ⟨configWord s.build, rfl, ?points, ?zero, ?channels, fun w => rfl⟩
  case points =>
    rw [BitVec.toNat_ushiftRight, hvalue, Nat.shiftRight_eq_div_pow]
    omega
  case zero =>
    apply BitVec.eq_of_toNat_eq
    rw [BitVec.extractLsb'_toNat, hvalue, Nat.shiftRight_eq_div_pow, BitVec.toNat_ofNat]
    omega
  case channels =>
    rw [BitVec.extractLsb'_toNat, hvalue, Nat.shiftRight_eq_div_pow]
    omega

/-! ### SHAPE_MODE (10_state.md R29) -/

/-- A legal SHAPE code is the code of a shape (30_encoding.md R79). -/
theorem shapeOfCode_legal {n : Nat} (h : n ≤ 5) :
    ∃ sh, shapeOfCode n = some sh ∧ (shapeCode sh).toNat = n := by
  interval_cases n <;> exact ⟨_, rfl, rfl⟩

/-- Codes from 6 on are no shape (30_encoding.md R79). -/
theorem shapeOfCode_illegal {n : Nat} (h : 6 ≤ n) : shapeOfCode n = none := by
  match n, h with
  | _ + 6, _ => rfl

theorem writeShapeMode_legal {w : Word} (p : Params) (h : w.toNat % 8 ≤ 5) :
    (shapeCode (writeShapeMode p w).shape).toNat = w.toNat % 8 := by
  obtain ⟨sh, hsome, hcode⟩ := shapeOfCode_legal h
  simp [writeShapeMode, hsome, hcode]

theorem writeShapeMode_illegal {w : Word} (p : Params) (h : 6 ≤ w.toNat % 8) :
    (writeShapeMode p w).shape = p.shape := by
  simp [writeShapeMode, shapeOfCode_illegal h]

/-- MODE is bit 8 of the written word, whatever its SHAPE field. -/
theorem writeShapeMode_mode (p : Params) (w : Word) :
    (writeShapeMode p w).mode = .inPlace ↔ w.getLsbD 8 = true := by
  simp [writeShapeMode, modeOfBit]

theorem shapeModeWord_toNat (p : Params) :
    (shapeModeWord p).toNat = (shapeCode p.shape).toNat + (if p.mode = .inPlace then 256 else 0) := by
  simp only [shapeModeWord, toNat_append_eq_add]
  cases p.mode with
  | dynamic => simp [modeBit]
  | inPlace => simp [modeBit, Nat.add_comm]

/-- Settles O23: a write and a read of the register by the rules for channel registers, their values by
the lemmas above. -/
theorem shapeModeIsWriteAnyReadLegal : Obligations.ShapeModeIsWriteAnyReadLegal := by
  refine ⟨rfl, ?write, ?read, ?reset⟩
  case write =>
    intro s j w hinv hj
    exact ⟨writeShapeMode (s.chan j).params w,
      transact_write_channelReg (hinv.channel_lt hj) hj .shapeMode w, rfl,
      writeShapeMode_legal _, writeShapeMode_illegal _, writeShapeMode_mode _ w⟩
  case read =>
    intro s j hinv hj
    exact ⟨shapeModeWord (s.chan j).params, busRead_channelReg (hinv.channel_lt hj) hj .shapeMode,
      shapeModeWord_toNat _⟩
  case reset =>
    intro b j p hb hp
    obtain ⟨-, -, -, -, -, -, -, -, hparams, -⟩ := (Build.wf_iff b).1 hb
    obtain ⟨hj, -⟩ := List.getElem?_eq_some_iff.1 hp
    rw [chan_resetOf (hparams ▸ hj)]
    exact Option.some.inj ((resetOf_params hj).symm.trans hp)

/-! ### Absent channels (10_state.md R45) -/

/-- Settles O26: every address of the window names nothing. -/
theorem absentChannelWindowsAreEmpty : Obligations.AbsentChannelWindowsAreEmpty := by
  intro s j off _ habsent hj hoff
  have target : targetOf s.build (BitVec.ofNat 24 (0x001000 + 0x100 * j + off)) = .empty := by
    rw [targetOf_channelWindow s.build (by omega) hoff]
    exact channelTarget_of_absent (by omega)
  refine ⟨busRead_of_empty target, fun v => ?_⟩
  rw [transact_write]
  exact busWrite_of_empty (s := { s with reply := none }) target v

/-! ### RESULT (10_state.md R43) -/

/-- Every command but the three that write RESULT keeps it. -/
theorem exec_keeps_result (i : Instr) (s : State) :
    (∃ c x, i = .genUpdatePoint c x) ∨ (∃ c, i = .quantize c) ∨ i = .formatLed ∨
      Keeps State.result s (exec i s) := by
  have generator : ∀ (c : Nat) (F : State → Channel),
      Keeps State.result s (.next (onGenerator s c fun s => s.setChan c (F s))) := fun c F =>
    .next (onGenerator_keeps State.result State.setNotfound_result (fun _ => by rfl) s c)
  cases i with
  | genUpdatePoint c x => exact .inl ⟨c, x, rfl⟩
  | quantize c => exact .inr (.inl ⟨c, rfl⟩)
  | formatLed => exact .inr (.inr (.inl rfl))
  | update | treset | clear | finalize =>
    exact .inr (.inr (.inr (.next (forUpto_keeps State.result (fun _ _ => by rfl) s))))
  | map c e =>
    refine .inr (.inr (.inr (.next ?_)))
    split_ifs
    · exact forUpto_keeps State.result (fun _ _ => by rfl) s
    · rfl
  | genUpdate c | genReset c | genMask c => exact .inr (.inr (.inr (generator c _)))

/-- On a channel of the build GEN_UPDATE_POINT writes its value to RESULT (40_waveform.md R97). -/
theorem execGenUpdatePoint_result {s : State} {c : Nat} (hc : c < s.build.channels) (x : Nat) :
    ∃ t, exec (.genUpdatePoint c x) s = .next t ∧
      t.result = updatePointValue s.build.points (s.chan c) s.argT s.argDt x := by
  refine ⟨_, rfl, ?_⟩
  rw [onGenerator, if_neg (by omega)]
  rfl

/-- Settles O56: the writers and the port by evaluation, the other commands by `exec_keeps_result`. -/
theorem resultIsWrittenByThreeCommands : Obligations.ResultIsWrittenByThreeCommands := by
  refine ⟨fun s c x hc => execGenUpdatePoint_result hc x, fun s c => ⟨_, rfl, rfl⟩,
    fun s => ⟨_, rfl, rfl⟩, ?others, fun s w => ⟨rfl, rfl⟩, fun b => rfl⟩
  case others =>
    intro i s t hexec hne
    rcases exec_keeps_result i s with h | h | h | h
    · exact .inl h
    · exact .inr (.inl h)
    · exact .inr (.inr h)
    · exact absurd (h.eq_of_next hexec) hne

end Sys2Proof.Machine

/-!
Proofs of the statements of the family 20_memory.md: the addresses of each region, the legal accesses,
what an address names, and what a read of the frame and buffer windows returns.
-/

namespace Sys2Proof.Machine

/-! ### The regions as ranges of addresses (20_memory.md R55) -/

/-- The addresses of a region, as numbers. -/
def Region.Contains (r : Region) (n : Nat) : Prop :=
  match r with
  | .globals => n < 0x001000
  | .channelRegs => 0x001000 ≤ n ∧ n < 0x002000
  | .frame => 0x010000 ≤ n ∧ n < 0x020000
  | .raw => 0x100000 ≤ n ∧ n < 0x200000
  | .samples => 0x200000 ≤ n ∧ n < 0x300000
  | .mask => 0x300000 ≤ n ∧ n < 0x400000
  | .unmapped => 0x002000 ≤ n ∧ n < 0x010000 ∨ 0x020000 ≤ n ∧ n < 0x100000 ∨ 0x400000 ≤ n

/-- An address lies in the range of its region. -/
theorem regionOf_contains (a : Addr) : (regionOf a).Contains a.toNat := by
  simp only [regionOf]
  split_ifs <;> simp only [Region.Contains] <;> omega

/-- The ranges are disjoint. -/
theorem Region.Contains.unique {r q : Region} {n : Nat} (hr : r.Contains n) (hq : q.Contains n) :
    r = q := by
  cases r <;> cases q <;> simp only [Region.Contains, reduceCtorEq] at hr hq ⊢ <;> omega

theorem regionOf_eq_iff (a : Addr) (r : Region) : regionOf a = r ↔ r.Contains a.toNat :=
  ⟨fun h => h ▸ regionOf_contains a, (regionOf_contains a).unique⟩

/-! ### Legal accesses (20_memory.md R58) -/

theorem wordAligned_iff (a : Addr) (n : AccessSize) :
    wordAligned a n = true ↔ n = .word ∧ a.toNat % 4 = 0 := by
  simp [wordAligned]

/-- What makes a read legal is fixed by the region of its address. -/
theorem readLegal_iff (a : Addr) (n : AccessSize) : readLegal a n = true ↔
    (a.toNat < 0x002000 ∧ n = .word ∧ a.toNat % 4 = 0) ∨
    (0x010000 ≤ a.toNat ∧ a.toNat ≤ 0x01FFFF ∧ a.toNat % sizeBytes n = 0) ∨
    (0x100000 ≤ a.toNat ∧ a.toNat ≤ 0x3FFFFF ∧ n = .word ∧ a.toNat % 4 = 0) := by
  have hrange := regionOf_contains a
  cases hr : regionOf a with
  | globals | channelRegs | raw | samples | mask =>
    rw [hr, Region.Contains] at hrange
    simp only [readLegal, hr, wordAligned_iff]
    grind
  | frame =>
    rw [hr, Region.Contains] at hrange
    simp only [readLegal, hr, beq_iff_eq]
    grind
  | unmapped =>
    rw [hr, Region.Contains] at hrange
    simp only [readLegal, hr]
    grind

/-- A write is legal at the registers alone. -/
theorem writeLegal_iff (a : Addr) (n : AccessSize) : writeLegal a n = true ↔
    a.toNat < 0x002000 ∧ n = .word ∧ a.toNat % 4 = 0 := by
  have hrange := regionOf_contains a
  cases hr : regionOf a with
  | globals | channelRegs =>
    rw [hr, Region.Contains] at hrange
    simp only [writeLegal, hr, wordAligned_iff]
    grind
  | frame | raw | samples | mask | unmapped =>
    rw [hr, Region.Contains] at hrange
    simp only [writeLegal, hr]
    grind

/-- Settles O15: the two lists of R58. -/
theorem legalAccessesAreTheListedOnes : Obligations.LegalAccessesAreTheListedOnes :=
  ⟨readLegal_iff, writeLegal_iff⟩

/-! ### Illegal and empty accesses (20_memory.md R59) -/

theorem busRead_of_illegal {a : Addr} {n : AccessSize} (h : readLegal a n = false) (s : State) :
    busRead s a n = zeroData n := by
  simp [busRead, h]

theorem busWrite_of_illegal {a : Addr} {v : PortData} (h : writeLegal a (dataSize v) = false)
    (s : State) : busWrite a v s = .next s := by
  cases v with
  | byte _ | half _ => rfl
  | word w =>
    change writeLegal a .word = false at h
    simp [busWrite, h]

/-- A read leaves its answer on the port and changes nothing else. -/
theorem step_read {s : State} {a : Addr} {n : AccessSize} {rest : List HostEvent}
    (h : s.pending = .read a n :: rest) :
    step s = .next { s with pending := rest, reply := some (busRead s a n) } := by
  rw [step_perform s _ _ h]
  rfl

theorem step_write {s : State} {a : Addr} {v : PortData} {rest : List HostEvent}
    (h : s.pending = .write a v :: rest) :
    step s = busWrite a v { s with pending := rest, reply := none } :=
  step_perform s _ _ h

/-- An address is empty when its region names nothing at its offset. -/
theorem targetOf_eq_empty_iff (b : Build) (a : Addr) (h : a.toNat % 4 = 0 ∨ 0x010000 ≤ a.toNat) :
    targetOf b a = .empty ↔
      (0x000024 ≤ a.toNat ∧ a.toNat ≤ 0x000FFF) ∨
      (0x001000 ≤ a.toNat ∧ a.toNat ≤ 0x001FFF ∧
        (0x28 ≤ a.toNat % 0x100 ∨ b.channels ≤ (a.toNat - 0x001000) / 0x100)) ∨
      (0x002000 ≤ a.toNat ∧ a.toNat ≤ 0x00FFFF) ∨
      (0x010000 + 4 * b.points ≤ a.toNat ∧ a.toNat ≤ 0x01FFFF) ∨
      (0x020000 ≤ a.toNat ∧ a.toNat ≤ 0x0FFFFF) ∨
      (0x100000 ≤ a.toNat ∧ a.toNat ≤ 0x3FFFFF ∧
        (b.channels ≤ a.toNat % 0x100000 / 0x10000 ∨ b.points ≤ a.toNat % 0x10000 / 4)) ∨
      0x400000 ≤ a.toNat := by
  have hrange := regionOf_contains a
  cases hr : regionOf a with
  | globals =>
    rw [hr, Region.Contains] at hrange
    have hreg := globalRegAt_eq_none_iff a.toNat (by omega)
    have hempty : targetOf b a = .empty ↔ globalRegAt a.toNat = none := by
      simp only [targetOf, hr]
      cases globalRegAt a.toNat <;> simp
    rw [hempty, hreg]
    omega
  | channelRegs =>
    rw [hr, Region.Contains] at hrange
    obtain ⟨lo, hi⟩ := hrange
    rw [targetOf_channelRegs b lo hi, channelTarget_eq_empty_iff b _ (by omega)]
    omega
  | frame =>
    rw [hr, Region.Contains] at hrange
    simp only [targetOf, hr, ite_eq_right_iff, reduceCtorEq, imp_false]
    omega
  | raw | samples | mask =>
    rw [hr, Region.Contains] at hrange
    simp only [targetOf, hr]
    rw [elementAt_eq_empty_iff b _ (by simp)]
    omega
  | unmapped =>
    rw [hr, Region.Contains] at hrange
    simp only [targetOf, hr, true_iff]
    omega

/-- Settles O16: an illegal or empty access answers 0 or is ignored, by the rules of the port; the empty
addresses region by region. -/
theorem illegalOrEmptyAccessDoesNothing : Obligations.IllegalOrEmptyAccessDoesNothing := by
  refine ⟨?read, ?write, targetOf_eq_empty_iff⟩
  case read =>
    intro s a n rest hpending hnothing
    have hzero : busRead s a n = zeroData n :=
      hnothing.elim (fun h => busRead_of_illegal h s) (fun h => busRead_of_empty h n)
    rw [step_read hpending, hzero]
  case write =>
    intro s a v rest hpending hnothing
    rw [step_write hpending]
    exact hnothing.elim (fun h => busWrite_of_illegal h _)
      (fun h => busWrite_of_empty (s := { s with pending := rest, reply := none }) h v)

/-! ### The frame window (20_memory.md R60) -/

/-- The points of a legal build fit its windows. -/
theorem State.Inv.points_le {s : State} (h : s.Inv) : s.build.points ≤ 16384 := by
  obtain ⟨hwf, -⟩ := (State.inv_iff s).1 h
  obtain ⟨-, -, -, hpoints, -⟩ := (Build.wf_iff s.build).1 hwf
  exact hpoints

/-- A populated byte of the frame window names that byte. -/
theorem targetOf_frame {b : Build} {a : Addr} {k : Nat} (ha : a.toNat = 0x010000 + k)
    (hk : k < 0x010000) (hb : k < 4 * b.points) : targetOf b a = .frame k := by
  have hr : regionOf a = .frame := by
    rw [regionOf_eq_iff, Region.Contains]
    omega
  simp only [targetOf, hr, ha, Nat.add_sub_cancel_left, if_pos hb]

/-- A read of the frame window at a multiple of its size returns the bytes from there on. -/
theorem busRead_frame {s : State} {k : Nat} {n : AccessSize} (hs : s.Inv)
    (hk : k < 4 * s.build.points) (hsize : k % sizeBytes n = 0) :
    busRead s (BitVec.ofNat 24 (0x010000 + k)) n = frameData s k n := by
  have hpoints := hs.points_le
  have ha : (BitVec.ofNat 24 (0x010000 + k)).toNat = 0x010000 + k := by
    rw [BitVec.toNat_ofNat]
    omega
  have haligned : (0x010000 + k) % sizeBytes n = 0 := by
    cases n <;> simp only [sizeBytes] at hsize ⊢ <;> omega
  have hlegal : readLegal (BitVec.ofNat 24 (0x010000 + k)) n = true := by
    rw [readLegal_iff, ha]
    exact .inr (.inl ⟨by omega, by omega, haligned⟩)
  exact busRead_of_legal hlegal (targetOf_frame ha (by omega) hk)

/-- A word is its four bytes, the last the least significant. -/
theorem byteOf_append (w : Word) : byteOf w 3 ++ byteOf w 2 ++ byteOf w 1 ++ byteOf w 0 = w := by
  apply BitVec.eq_of_toNat_eq
  simp only [byteOf, toNat_append_eq_add, BitVec.extractLsb'_toNat, Nat.shiftRight_eq_div_pow]
  omega

/-- Byte `m` of word `i` of the frame. -/
theorem frameByte_of_word (s : State) (i : Nat) {m : Nat} (hm : m < 4) :
    frameByte s (4 * i + m) = byteOf (s.mappedAt i) m := by
  rw [frameByte, show (4 * i + m) / 4 = i by omega, show (4 * i + m) % 4 = m by omega]

/-- A 32-bit read of the frame window returns a word of MAPPED. -/
theorem frameData_word (s : State) (i : Nat) : frameData s (4 * i) .word = .word (s.mappedAt i) := by
  have hlow : frameByte s (4 * i) = byteOf (s.mappedAt i) 0 :=
    frameByte_of_word s i (m := 0) (by decide)
  rw [frameData, hlow, frameByte_of_word s i (m := 1) (by decide),
    frameByte_of_word s i (m := 2) (by decide), frameByte_of_word s i (m := 3) (by decide),
    byteOf_append]

/-- Settles O18: a byte and a half are the bytes of `frameData`; a word is put together again. -/
theorem frameWindowIsTheByteView : Obligations.FrameWindowIsTheByteView := by
  intro s hs
  refine ⟨?byte, ?half, ?word⟩
  case byte =>
    intro k hk
    exact busRead_frame (n := .byte) hs hk (Nat.mod_one k)
  case half =>
    intro k hk heven
    exact busRead_frame (n := .half) hs hk heven
  case word =>
    intro i hi
    rw [busRead_frame (n := .word) hs (by omega) (Nat.mul_mod_right 4 i), frameData_word]

/-! ### The buffer windows (20_memory.md R61) -/

/-- An element of the build stands at its offset of a buffer region. -/
theorem elementAt_of_lt {b : Build} {j i : Nat} (mk : Nat → Nat → Target) (hi : i < 0x4000)
    (hj : j < b.channels) (hb : i < b.points) :
    elementAt b mk (0x10000 * j + 4 * i) = mk j i := by
  have hchannel : (0x10000 * j + 4 * i) / 0x10000 = j := by omega
  have hpoint : (0x10000 * j + 4 * i) % 0x10000 / 4 = i := by omega
  rw [elementAt, hchannel, hpoint, if_pos ⟨hj, hb⟩]

/-- A 32-bit read of element `[j][i]` of a region of buffers `mk` that starts at `base`. -/
theorem busRead_element {s : State} {j i base : Nat} {r : Region} {mk : Nat → Nat → Target}
    (hs : s.Inv) (hj : j < s.build.channels) (hi : i < s.build.points)
    (hbase : base = 0x100000 ∨ base = 0x200000 ∨ base = 0x300000)
    (hr : ∀ n, n < 0x100000 → r.Contains (base + n))
    (htarget : ∀ a, regionOf a = r → targetOf s.build a = elementAt s.build mk (a.toNat - base)) :
    busRead s (BitVec.ofNat 24 (base + 0x10000 * j + 4 * i)) .word =
      readTarget s .word (mk j i) := by
  have hj16 := hs.channel_lt hj
  have hpoints := hs.points_le
  rw [Nat.add_assoc]
  have ha : (BitVec.ofNat 24 (base + (0x10000 * j + 4 * i))).toNat =
      base + (0x10000 * j + 4 * i) := by
    rw [BitVec.toNat_ofNat]
    omega
  have hlegal : readLegal (BitVec.ofNat 24 (base + (0x10000 * j + 4 * i))) .word = true := by
    rw [readLegal_iff, ha]
    exact .inr (.inr ⟨by omega, by omega, rfl, by omega⟩)
  have hregion : regionOf (BitVec.ofNat 24 (base + (0x10000 * j + 4 * i))) = r := by
    rw [regionOf_eq_iff, ha]
    exact hr _ (by omega)
  have helement : targetOf s.build (BitVec.ofNat 24 (base + (0x10000 * j + 4 * i))) = mk j i := by
    rw [htarget _ hregion, ha, Nat.add_sub_cancel_left, elementAt_of_lt mk (by omega) hj hi]
  exact busRead_of_legal hlegal helement

/-- The word of one MASK element. -/
theorem maskWord_eq (m : Bool) : 0#31 ++ BitVec.ofBool m = if m then 1#32 else 0#32 := by
  cases m <;> rfl

/-- Settles O19: each window is a region of elements at its own start. -/
theorem bufferWindowsReturnTheirElements : Obligations.BufferWindowsReturnTheirElements := by
  intro s j i hs hj hi
  refine ⟨?raw, ?samples, ?mask⟩
  case raw =>
    exact busRead_element (r := .raw) (mk := .raw) hs hj hi (.inl rfl)
      (fun n hn => ⟨by omega, by omega⟩) (fun a h => by simp only [targetOf, h])
  case samples =>
    exact busRead_element (r := .samples) (mk := .samples) hs hj hi (.inr (.inl rfl))
      (fun n hn => ⟨by omega, by omega⟩) (fun a h => by simp only [targetOf, h])
  case mask =>
    rw [← maskWord_eq]
    exact busRead_element (r := .mask) (mk := .mask) hs hj hi (.inr (.inr rfl))
      (fun n hn => ⟨by omega, by omega⟩) (fun a h => by simp only [targetOf, h])

end Sys2Proof.Machine

/-!
Proofs of the statements of the family 40_waveform.md: Noise (40_waveform.md R93), whose value is a
function of the offset, the amplitude and the random source alone.
-/

namespace Sys2Proof.Machine

/-! ### The value of Noise (40_waveform.md R93) -/

/-- A Noise value of a non-empty interval is the draw, and so lies in the interval. -/
theorem noiseShape_mem_interval {p : Params} {rng : Nat} (h : flt p.offset (noiseHigh p) = true) :
    fge (noiseShape p rng) p.offset = true ∧ flt (noiseShape p rng) (noiseHigh p) = true := by
  have hdraw : noiseShape p rng = Config.noisePrng.draw rng p.offset (noiseHigh p) := if_pos h
  rw [hdraw]
  exact Config.noisePrng.inInterval rng p.offset (noiseHigh p) h

/-- The draw of an empty interval is discarded for the offset, a NaN made canonical. -/
theorem noiseShape_of_empty {p : Params} {rng : Nat} (h : flt p.offset (noiseHigh p) = false) :
    noiseShape p rng = if isNaN p.offset then qNaN else p.offset :=
  if_neg (Bool.eq_false_iff.mp h)

/-- Noise reads no parameter but the offset and the amplitude. -/
theorem noiseShape_congr {p q : Params} (hoff : p.offset = q.offset)
    (hamp : p.amplitude = q.amplitude) (rng : Nat) : noiseShape p rng = noiseShape q rng := by
  rw [noiseShape, noiseShape, noiseHigh, noiseHigh, hoff, hamp]

/-! ### The evaluation of the shape Noise (40_waveform.md R94, 10_state.md R34) -/

/-- EVAL of the shape Noise drops the time, the step and the index. -/
theorem evalShape_of_noise {p : Params} (h : p.shape = .noise) (rng : Nat) (t dt : F32) (i : Nat) :
    evalShape p rng t dt i = noiseShape p rng := by
  simp only [evalShape, h]

/-- An evaluation of the shape Noise advances the random source once. -/
theorem evalRng_of_noise {p : Params} (h : p.shape = .noise) (rng : Nat) :
    evalRng p rng = noiseAdvance p rng := by
  simp only [evalRng, h]

/-- Settles O32: EVAL of a Noise channel is `noiseShape`, whose interval the random source keeps. -/
theorem noiseStaysInItsInterval : Obligations.NoiseStaysInItsInterval := by
  intro p rng t dt i hshape
  rw [evalShape_of_noise hshape]
  refine ⟨?interval, ?empty, ?advance, ?independent⟩
  case interval => exact noiseShape_mem_interval
  case empty => exact noiseShape_of_empty
  case advance => exact evalRng_of_noise hshape rng
  case independent =>
    intro freq phase t' dt' i'
    have hchanged := evalShape_of_noise (p := { p with frequency := freq, phase := phase })
      hshape rng t' dt' i'
    exact hchanged.trans (noiseShape_congr rfl rfl rng)

end Sys2Proof.Machine

/-!
Proofs of the statements of the family 42_encoder.md: the quantizer stays in range (42_encoder.md R126).
Rounding is monotone, so each of its stages keeps its operand between two known patterns.
-/

namespace Sys2Proof.Machine

/-! ### Rounding is monotone (00_scope.md R7) -/

theorem div_le_div_of_cross_le {n d n' d' : Nat} (hd : 0 < d) (hd' : 0 < d')
    (h : n * d' ≤ n' * d) : n / d ≤ n' / d' :=
  calc n / d = n * d' / (d * d') := (Nat.mul_div_mul_right _ _ hd').symm
    _ ≤ n' * d / (d * d') := Nat.div_le_div_right h
    _ = n' / d' := by rw [Nat.mul_comm d, Nat.mul_div_mul_right _ _ hd]

/-- With the same quotient, a larger fraction has the larger share of its divisor left over; so it is
rounded up where the smaller one is. -/
theorem roundHalfEven_mono {n d n' d' : Nat} (hd : 0 < d) (hd' : 0 < d')
    (h : n * d' ≤ n' * d) : roundHalfEven n d ≤ roundHalfEven n' d' := by
  have hq := div_le_div_of_cross_le hd hd' h
  have hn := Nat.div_add_mod n d
  have hn' := Nat.div_add_mod n' d'
  unfold roundHalfEven
  rcases hq.lt_or_eq with hlt | heq
  · dsimp only
    split_ifs <;> omega
  · have hr : n % d * d' ≤ n' % d' * d := by
      rw [heq] at hn
      nlinarith
    have hup : d ≤ 2 * (n % d) → d' ≤ 2 * (n' % d') := fun hle =>
      Nat.le_of_mul_le_mul_right (by nlinarith) hd
    have hup' : d < 2 * (n % d) → d' < 2 * (n' % d') := fun hlt =>
      Nat.lt_of_mul_lt_mul_right (a := d) (by nlinarith)
    dsimp only
    rw [heq]
    split_ifs <;> omega

/-- The larger magnitude rounds to the larger pattern: within one spacing by the rounding to an integer,
and across two spacings because the significand lies between `2^23` and `2^24`. -/
theorem roundMag_mono {n d n' d' : Nat} (hd : 0 < d) (hd' : 0 < d') (h : n * d' ≤ n' * d) :
    roundMag n d ≤ roundMag n' d' := by
  have hlog : Nat.log2 (n / d) ≤ Nat.log2 (n' / d') := by
    simpa only [Nat.log2_eq_log_two] using Nat.log_mono_right (div_le_div_of_cross_le hd hd' h)
  unfold roundMag
  dsimp only
  refine min_le_min_right _ ?_
  set e := Nat.log2 (n / d) - 23 with he
  set e' := Nat.log2 (n' / d') - 23 with he'
  rcases (show e ≤ e' by omega).eq_or_lt with heq | hlt
  · rw [← heq]
    refine Nat.add_le_add_left (roundHalfEven_mono (by positivity) (by positivity) ?_) _
    calc n * (d' * 2 ^ e) = n * d' * 2 ^ e := by ring
      _ ≤ n' * d * 2 ^ e := Nat.mul_le_mul_right _ h
      _ = n' * (d * 2 ^ e) := by ring
  · have hsmall : roundHalfEven n (d * 2 ^ e) ≤ 2 ^ 24 := by
      have hlt : n / d < 2 ^ (24 + e) :=
        Nat.lt_log2_self.trans_le (Nat.pow_le_pow_right (by norm_num) (by omega))
      have hle : n ≤ 2 ^ 24 * (d * 2 ^ e) := by
        have := ((Nat.div_lt_iff_lt_mul hd).1 hlt).le
        rw [pow_add] at this
        linarith
      rw [← roundHalfEven_exact (2 ^ 24) 1 one_pos]
      exact roundHalfEven_mono (by positivity) one_pos (by simpa using hle)
    have hlarge : 2 ^ 23 ≤ roundHalfEven n' (d' * 2 ^ e') := by
      have hne : n' / d' ≠ 0 := by
        intro h0
        simp [h0] at he'
        omega
      have hge : 2 ^ (23 + e') ≤ n' / d' := by
        rw [show 23 + e' = Nat.log2 (n' / d') by omega]
        exact Nat.log2_self_le hne
      have hle : 2 ^ 23 * (d' * 2 ^ e') ≤ n' := by
        have := (Nat.le_div_iff_mul_le hd').1 hge
        rw [pow_add] at this
        linarith
      rw [← roundHalfEven_exact (2 ^ 23) 1 one_pos]
      exact roundHalfEven_mono one_pos (by positivity) (by simpa using hle)
    omega

/-- Equal fractions round to the same pattern. -/
theorem roundMag_congr {n d n' d' : Nat} (hd : 0 < d) (hd' : 0 < d') (h : n * d' = n' * d) :
    roundMag n d = roundMag n' d' :=
  le_antisymm (roundMag_mono hd hd' h.le) (roundMag_mono hd' hd h.ge)

theorem roundMag_lt (n d : Nat) : roundMag n d < 2 ^ 31 :=
  (min_le_right _ _).trans_lt (by norm_num)

@[simp] theorem roundMag_zero (d : Nat) : roundMag 0 d = 0 := by
  have : Nat.log2 0 = 0 := by decide
  simp [roundMag, roundHalfEven, this]

/-! ### The comparison key -/

@[simp] theorem natAbs_orderKey (a : F32) : (orderKey a).natAbs = magBits a := by
  unfold orderKey
  split_ifs <;> omega

theorem isFinite_iff_natAbs (a : F32) :
    isFinite a = true ↔ (orderKey a).natAbs < 0x7F800000 := by
  rw [natAbs_orderKey, isFinite, decide_eq_true_eq]

theorem isZero_iff_orderKey (a : F32) : isZero a = true ↔ orderKey a = 0 := by
  rw [← Int.natAbs_eq_zero, natAbs_orderKey, isZero, beq_iff_eq]

theorem isInf_of_isFinite {a : F32} (h : isFinite a = true) : isInf a = false := by
  simp only [isFinite, decide_eq_true_eq] at h
  simp only [isInf, beq_eq_false_iff_ne]
  omega

theorem orderKey_packF32 (s : Bool) {m : Nat} (hm : m < 2 ^ 31) :
    orderKey (packF32 s m) = if s then -(m : Int) else m := by
  rw [orderKey, signOf_packF32 s m hm, magBits_packF32 s m hm]

/-- A rounded magnitude of sign `+`, or a zero of either sign. -/
theorem orderKey_roundUnits {s : Bool} {n d : Nat} (h : s = true → n = 0) :
    orderKey (roundUnits s n d) = roundMag n d := by
  rw [roundUnits, orderKey_packF32 s (roundMag_lt n d)]
  cases s with
  | false => rfl
  | true => simp [h rfl]

theorem units_eq_of_orderKey_eq {a b : F32} (h : orderKey a = orderKey b) : units a = units b :=
  le_antisymm ((orderKey_le_iff a b).1 h.le) ((orderKey_le_iff b a).1 h.ge)

theorem magUnits_eq_of_orderKey_eq {a b : F32} (h : orderKey a = orderKey b) :
    magUnits a = magUnits b := by
  rw [magUnits, magUnits, ← natAbs_orderKey, ← natAbs_orderKey, h]

/-- A pattern of sign `-` whose key is not negative is `-0.0`. -/
theorem magUnits_of_signOf {a : F32} (h : 0 ≤ orderKey a) (hs : signOf a = true) :
    magUnits a = 0 := by
  rw [orderKey, if_pos hs] at h
  rw [magUnits, show magBits a = 0 by omega]
  rfl

theorem units_of_orderKey_nonneg {a : F32} (h : 0 ≤ orderKey a) : units a = magUnits a := by
  unfold units
  split_ifs with hs
  · rw [magUnits_of_signOf h hs]; rfl
  · rfl

theorem magUnits_le {a b : F32} (ha : 0 ≤ orderKey a) (h : orderKey a ≤ orderKey b) :
    magUnits a ≤ magUnits b := by
  have := (orderKey_le_iff a b).1 h
  rw [units_of_orderKey_nonneg ha, units_of_orderKey_nonneg (ha.trans h)] at this
  exact_mod_cast this

theorem magUnits_pos {a : F32} (h : 0 < orderKey a) : 0 < magUnits a := by
  have : 0 < magBits a := by rw [← natAbs_orderKey]; omega
  exact unitsOfMag_strictMono this

theorem signOf_of_orderKey_pos {a : F32} (h : 0 < orderKey a) : signOf a = false := by
  by_contra hs
  rw [orderKey, if_pos (by simpa using hs)] at h
  omega

/-! ### The primitives on finite operands (00_scope.md R15) -/

@[simp] theorem magBits_fneg (a : F32) : magBits (fneg a) = magBits a := by
  rw [magBits, fneg, BitVec.toNat_xor, Nat.xor_mod_two_pow]
  exact Nat.xor_zero _

@[simp] theorem signOf_fneg (a : F32) : signOf (fneg a) = !signOf a := by
  rw [signOf, fneg, BitVec.msb_xor, show (0x80000000#32 : F32).msb = true by decide, Bool.xor_true]
  rfl

@[simp] theorem units_fneg (a : F32) : units (fneg a) = -units a := by
  rw [units, units, magUnits, magUnits, magBits_fneg, signOf_fneg]
  cases signOf a <;> simp

theorem fsub_of_isFinite {a b : F32} (ha : isFinite a = true) (hb : isFinite b = true) :
    fsub a b = if units a - units b = 0 then packF32 (signOf a && !signOf b) 0
      else roundUnits (decide (units a - units b < 0)) (units a - units b).natAbs 1 := by
  have hb' : isFinite (fneg b) = true := by simpa [isFinite] using hb
  simp [fsub, fadd, not_isNaN_of_isFinite ha, not_isNaN_of_isFinite hb', isInf_of_isFinite ha,
    isInf_of_isFinite hb', ← sub_eq_add_neg]

theorem fmul_of_isFinite {a b : F32} (ha : isFinite a = true) (hb : isFinite b = true) :
    fmul a b = roundUnits (signOf a != signOf b) (magUnits a * magUnits b) (2 ^ 149) := by
  simp [fmul, not_isNaN_of_isFinite ha, not_isNaN_of_isFinite hb, isInf_of_isFinite ha,
    isInf_of_isFinite hb]

theorem fdiv_of_isFinite {a b : F32} (ha : isFinite a = true) (hb : isFinite b = true)
    (hpos : 0 < orderKey b) :
    fdiv a b = roundUnits (signOf a) (magUnits a * 2 ^ 149) (magUnits b) := by
  have hz : isZero b = false := by
    rw [Bool.eq_false_iff, ne_eq, isZero_iff_orderKey]
    omega
  simp [fdiv, not_isNaN_of_isFinite ha, not_isNaN_of_isFinite hb, isInf_of_isFinite ha,
    isInf_of_isFinite hb, hz, signOf_of_orderKey_pos hpos]

theorem orderKey_fsub {a b : F32} (ha : isFinite a = true) (hb : isFinite b = true)
    (h : orderKey b ≤ orderKey a) :
    orderKey (fsub a b) = roundMag (units a - units b).natAbs 1 := by
  have hle := (orderKey_le_iff b a).1 h
  rw [fsub_of_isFinite ha hb]
  split_ifs with hz
  · rw [hz, orderKey_packF32 _ (by norm_num)]
    simp
  · exact orderKey_roundUnits fun hneg => by simp at hneg; omega

theorem orderKey_fdiv {a b : F32} (ha : isFinite a = true) (hb : isFinite b = true)
    (h : 0 ≤ orderKey a) (hpos : 0 < orderKey b) :
    orderKey (fdiv a b) = roundMag (magUnits a * 2 ^ 149) (magUnits b) := by
  rw [fdiv_of_isFinite ha hb hpos]
  exact orderKey_roundUnits fun hs => by rw [magUnits_of_signOf h hs, zero_mul]

theorem orderKey_fmul {a b : F32} (ha : isFinite a = true) (hb : isFinite b = true)
    (h : 0 ≤ orderKey a) (hpos : 0 < orderKey b) :
    orderKey (fmul a b) = roundMag (magUnits a * magUnits b) (2 ^ 149) := by
  rw [fmul_of_isFinite ha hb, signOf_of_orderKey_pos hpos, Bool.bne_false]
  exact orderKey_roundUnits fun hs => by rw [magUnits_of_signOf h hs, zero_mul]

theorem fsub_self {a : F32} (ha : isFinite a = true) : fsub a a = posZero := by
  simp [fsub_of_isFinite ha ha, packF32, posZero]

theorem fdiv_posZero {a : F32} (ha : isFinite a = true) (hpos : 0 < orderKey a) :
    fdiv posZero a = posZero := by
  rw [fdiv_of_isFinite isFinite_posZero ha hpos, show signOf posZero = false from rfl,
    show magUnits posZero = 0 from rfl, zero_mul, roundUnits, roundMag_zero]
  rfl

theorem fdiv_self {a : F32} (ha : isFinite a = true) (hpos : 0 < orderKey a) :
    fdiv a a = fOne := by
  have hone : roundMag (magUnits a * 2 ^ 149) (magUnits a) = roundMag (2 ^ 149) 1 :=
    roundMag_congr (magUnits_pos hpos) one_pos (by ring)
  rw [fdiv_of_isFinite ha ha hpos, signOf_of_orderKey_pos hpos, roundUnits, hone]
  decide

/-! ### Values between two patterns -/

theorem isFinite_f255 : isFinite f255 = true := by decide

/-- `lo <= x <= hi` for patterns, with `-0.0` equal to `+0.0`. -/
def Between (lo x hi : F32) : Prop := orderKey lo ≤ orderKey x ∧ orderKey x ≤ orderKey hi

theorem Between.finite {lo x hi : F32} (h : Between lo x hi) (hlo : isFinite lo = true)
    (hhi : isFinite hi = true) : isFinite x = true := by
  obtain ⟨hge, hle⟩ := h
  rw [isFinite_iff_natAbs] at *
  omega

theorem fge_of_orderKey_le {a b : F32} (ha : isFinite a = true) (hb : isFinite b = true)
    (h : orderKey b ≤ orderKey a) : fge a b = true := by
  simp [fge, not_isNaN_of_isFinite ha, not_isNaN_of_isFinite hb, h]

theorem Between.fge_bounds {lo x hi : F32} (h : Between lo x hi) (hlo : isFinite lo = true)
    (hhi : isFinite hi = true) : fge x lo = true ∧ fge hi x = true := by
  have hx := h.finite hlo hhi
  exact ⟨fge_of_orderKey_le hx hlo h.1, fge_of_orderKey_le hhi hx h.2⟩

theorem Between.nonneg {x hi : F32} (h : Between posZero x hi) : 0 ≤ orderKey x := h.1

theorem fsub_between {lo x hi : F32} (h : Between lo x hi) (hlo : isFinite lo = true)
    (hhi : isFinite hi = true) : Between posZero (fsub x lo) (fsub hi lo) := by
  obtain ⟨hge, hle⟩ := h
  have hu := (orderKey_le_iff lo x).1 hge
  have hu' := (orderKey_le_iff x hi).1 hle
  rw [Between, orderKey_fsub (Between.finite ⟨hge, hle⟩ hlo hhi) hlo hge,
    orderKey_fsub hhi hlo (hge.trans hle)]
  refine ⟨Int.natCast_nonneg _, ?_⟩
  exact_mod_cast roundMag_mono one_pos one_pos (by omega)

/-- A difference of two values that are not equal does not round to zero. -/
theorem orderKey_fsub_pos {a b : F32} (ha : isFinite a = true) (hb : isFinite b = true)
    (h : orderKey b < orderKey a) : 0 < orderKey (fsub a b) := by
  have hu : ¬ units a ≤ units b := fun hle => h.not_ge ((orderKey_le_iff a b).2 hle)
  have hone : roundMag 1 1 = 1 := by decide
  have hmono : roundMag 1 1 ≤ roundMag (units a - units b).natAbs 1 :=
    roundMag_mono one_pos one_pos (by omega)
  rw [orderKey_fsub ha hb h.le]
  omega

theorem fdiv_between {a b : F32} (h : Between posZero a b) (hb : isFinite b = true)
    (hpos : 0 < orderKey b) : Between posZero (fdiv a b) fOne := by
  rw [Between, orderKey_fdiv (h.finite isFinite_posZero hb) hb h.nonneg hpos,
    show orderKey fOne = (roundMag (2 ^ 149) 1 : ℕ) by decide]
  refine ⟨Int.natCast_nonneg _, ?_⟩
  have hle := magUnits_le h.nonneg h.2
  exact_mod_cast roundMag_mono (magUnits_pos hpos) one_pos (by nlinarith)

theorem fmul_f255_between {a : F32} (h : Between posZero a fOne) :
    Between posZero (fmul a f255) f255 := by
  rw [Between, orderKey_fmul (h.finite isFinite_posZero isFinite_fOne) isFinite_f255 h.nonneg
      (by decide),
    show orderKey f255 = (roundMag (magUnits fOne * magUnits f255) (2 ^ 149) : ℕ) by decide]
  refine ⟨Int.natCast_nonneg _, ?_⟩
  have hle := magUnits_le h.nonneg h.2
  exact_mod_cast roundMag_mono (by positivity) (by positivity)
    (Nat.mul_le_mul_right _ (Nat.mul_le_mul_right _ hle))

/-- `trunc8` needs no saturation in `[0, 255]` (42_encoder.md R126). -/
theorem trunc8_toNat {a : F32} (h : Between posZero a f255) :
    ((trunc8 a).toNat : ℤ) = ⌊ratValue a⌋ := by
  have hle := magUnits_le h.nonneg h.2
  have h255 : magUnits f255 = 255 * 2 ^ 149 := by decide
  have hfloor : ⌊ratValue a⌋ = ((magUnits a / 2 ^ 149 : ℕ) : ℤ) := by
    rw [ratValue, units_of_orderKey_nonneg h.nonneg]
    exact_mod_cast Rat.floor_intCast_div_natCast (magUnits a) (2 ^ 149)
  have hlt : magUnits a / 2 ^ 149 < 2 ^ 8 := by omega
  rw [hfloor, trunc8, BitVec.toNat_ofNat, Nat.mod_eq_of_lt hlt]

/-! ### The stages of the quantizer (42_encoder.md R125, R126) -/

theorem flt_eq_decide {a b : F32} (ha : isNaN a = false) (hb : isNaN b = false) :
    flt a b = decide (orderKey a < orderKey b) := by
  simp [flt, ha, hb]

/-- The range of the quantizer: finite bounds in order, and a finite span that is not zero. -/
theorem Build.range_of_wf {b : Build} (hb : b.wf = true) :
    isFinite b.normMin = true ∧ isFinite b.normMax = true ∧
      orderKey b.normMin < orderKey b.normMax ∧ isFinite (fsub b.normMax b.normMin) = true ∧
      0 < orderKey (fsub b.normMax b.normMin) := by
  obtain ⟨-, -, -, -, hmin, hmax, hflt, hspan, -, -⟩ := (Build.wf_iff b).1 hb
  rw [flt_eq_decide (not_isNaN_of_isFinite hmin) (not_isNaN_of_isFinite hmax)] at hflt
  have hlt := of_decide_eq_true hflt
  exact ⟨hmin, hmax, hlt, hspan, orderKey_fsub_pos hmax hmin hlt⟩

section
variable {b : Build} {v : F32}

theorem q8_of_not_isNaN (hv : isNaN v = false) : q8 b v = trunc8 (rescaled b v) := by
  simp [q8, hv]

/-- The three cases of the clamp, by the key of the value. -/
theorem clampNorm_cases (hb : b.wf = true) (hv : isNaN v = false) :
    (orderKey v < orderKey b.normMin ∧ clampNorm b v = b.normMin) ∨
    (orderKey b.normMax < orderKey v ∧ clampNorm b v = b.normMax) ∨
    (Between b.normMin v b.normMax ∧ clampNorm b v = v) := by
  obtain ⟨hmin, hmax, hlt, -, -⟩ := Build.range_of_wf hb
  unfold clampNorm fgt
  rw [flt_eq_decide hv (not_isNaN_of_isFinite hmin), flt_eq_decide (not_isNaN_of_isFinite hmax) hv]
  simp only [decide_eq_true_eq]
  by_cases hlow : orderKey v < orderKey b.normMin
  · exact .inl ⟨hlow, if_pos hlow⟩
  · by_cases hhigh : orderKey b.normMax < orderKey v
    · exact .inr (.inl ⟨hhigh, by rw [if_neg hlow, if_pos hhigh]⟩)
    · exact .inr (.inr ⟨⟨by omega, by omega⟩, by rw [if_neg hlow, if_neg hhigh]⟩)

theorem clampNorm_between (hb : b.wf = true) (hv : isNaN v = false) :
    Between b.normMin (clampNorm b v) b.normMax := by
  obtain ⟨-, -, hlt, -, -⟩ := Build.range_of_wf hb
  rcases clampNorm_cases hb hv with ⟨-, h⟩ | ⟨-, h⟩ | ⟨hbetween, h⟩
  · rw [h]; exact ⟨le_rfl, hlt.le⟩
  · rw [h]; exact ⟨hlt.le, le_rfl⟩
  · rwa [h]

theorem difference_between (hb : b.wf = true) (hv : isNaN v = false) :
    Between posZero (fsub (clampNorm b v) b.normMin) (fsub b.normMax b.normMin) := by
  obtain ⟨hmin, hmax, -, -, -⟩ := Build.range_of_wf hb
  exact fsub_between (clampNorm_between hb hv) hmin hmax

theorem quotient_between (hb : b.wf = true) (hv : isNaN v = false) :
    Between posZero (fdiv (fsub (clampNorm b v) b.normMin) (fsub b.normMax b.normMin)) fOne := by
  obtain ⟨-, -, -, hspan, hpos⟩ := Build.range_of_wf hb
  exact fdiv_between (difference_between hb hv) hspan hpos

theorem rescaled_between (hb : b.wf = true) (hv : isNaN v = false) :
    Between posZero (rescaled b v) f255 :=
  fmul_f255_between (quotient_between hb hv)

/-! The key of each stage is a function of the key of the stage before it. -/

theorem orderKey_difference (hb : b.wf = true) (hv : isNaN v = false) :
    orderKey (fsub (clampNorm b v) b.normMin) =
      roundMag (units (clampNorm b v) - units b.normMin).natAbs 1 := by
  obtain ⟨hmin, hmax, -, -, -⟩ := Build.range_of_wf hb
  have hclamp := clampNorm_between hb hv
  exact orderKey_fsub (hclamp.finite hmin hmax) hmin hclamp.1

theorem orderKey_quotient (hb : b.wf = true) (hv : isNaN v = false) :
    orderKey (fdiv (fsub (clampNorm b v) b.normMin) (fsub b.normMax b.normMin)) =
      roundMag (magUnits (fsub (clampNorm b v) b.normMin) * 2 ^ 149)
        (magUnits (fsub b.normMax b.normMin)) := by
  obtain ⟨-, -, -, hspan, hpos⟩ := Build.range_of_wf hb
  have hdiff := difference_between hb hv
  exact orderKey_fdiv (hdiff.finite isFinite_posZero hspan) hspan hdiff.nonneg hpos

theorem orderKey_rescaled (hb : b.wf = true) (hv : isNaN v = false) :
    orderKey (rescaled b v) =
      roundMag (magUnits (fdiv (fsub (clampNorm b v) b.normMin) (fsub b.normMax b.normMin)) *
        magUnits f255) (2 ^ 149) := by
  have hquot := quotient_between hb hv
  exact orderKey_fmul (hquot.finite isFinite_posZero isFinite_fOne) isFinite_f255 hquot.nonneg
    (by decide)

/-! ### The codes at the ends of the range and at zero (42_encoder.md R125) -/

/-- Code 255 where the rounded difference reaches the rounded span (42_encoder.md R125). -/
theorem q8_of_difference_eq_span (hb : b.wf = true) (hv : isNaN v = false)
    (h : fsub (clampNorm b v) b.normMin = fsub b.normMax b.normMin) : q8 b v = 0xFF#8 := by
  obtain ⟨-, -, -, hspan, hpos⟩ := Build.range_of_wf hb
  rw [q8_of_not_isNaN hv, rescaled, h, fdiv_self hspan hpos]
  decide

theorem q8_of_clampNorm_eq_normMin (hb : b.wf = true) (hv : isNaN v = false)
    (h : clampNorm b v = b.normMin) : q8 b v = 0x00#8 := by
  obtain ⟨hmin, -, -, hspan, hpos⟩ := Build.range_of_wf hb
  rw [q8_of_not_isNaN hv, rescaled, h, fsub_self hmin, fdiv_posZero hspan hpos]
  decide

/-- Past the range the clamp answers its upper bound, and at the bound it answers the operand. -/
theorem clampNorm_eq_normMax (hb : b.wf = true) (hv : isNaN v = false)
    (h : orderKey b.normMax < orderKey v ∨ v = b.normMax) : clampNorm b v = b.normMax := by
  obtain ⟨-, -, hlt, -, -⟩ := Build.range_of_wf hb
  rcases clampNorm_cases hb hv with ⟨hlow, -⟩ | ⟨-, heq⟩ | ⟨⟨-, hle⟩, heq⟩
  · rcases h with h | rfl <;> omega
  · exact heq
  · rcases h with h | h
    · omega
    · rw [heq, h]

theorem clampNorm_eq_normMin (hb : b.wf = true) (hv : isNaN v = false)
    (h : orderKey v < orderKey b.normMin) : clampNorm b v = b.normMin := by
  obtain ⟨hmin, -, -, -, -⟩ := Build.range_of_wf hb
  rw [clampNorm, flt_eq_decide hv (not_isNaN_of_isFinite hmin), decide_eq_true h, if_pos rfl]

theorem q8_posInf (hb : b.wf = true) : q8 b 0x7F800000#32 = 0xFF#8 := by
  obtain ⟨-, hmax, -, -, -⟩ := Build.range_of_wf hb
  have hkey : orderKey 0x7F800000#32 = 0x7F800000 := by decide
  rw [isFinite_iff_natAbs] at hmax
  have hclamp : clampNorm b 0x7F800000#32 = b.normMax :=
    clampNorm_eq_normMax hb (by decide) (.inl (by omega))
  exact q8_of_difference_eq_span hb (by decide) (by rw [hclamp])

theorem q8_negInf (hb : b.wf = true) : q8 b 0xFF800000#32 = 0x00#8 := by
  obtain ⟨hmin, -, -, -, -⟩ := Build.range_of_wf hb
  have hkey : orderKey 0xFF800000#32 = -0x7F800000 := by decide
  rw [isFinite_iff_natAbs] at hmin
  exact q8_of_clampNorm_eq_normMin hb (by decide)
    (clampNorm_eq_normMin hb (by decide) (by omega))

theorem q8_normMax (hb : b.wf = true) : q8 b b.normMax = 0xFF#8 := by
  obtain ⟨-, hmax, -, -, -⟩ := Build.range_of_wf hb
  have hv := not_isNaN_of_isFinite hmax
  exact q8_of_difference_eq_span hb hv (by rw [clampNorm_eq_normMax hb hv (.inr rfl)])

/-- Values that compare equal are clamped to values that compare equal. -/
theorem orderKey_clampNorm_congr {w : F32} (hb : b.wf = true) (hv : isNaN v = false)
    (hw : isNaN w = false) (h : orderKey v = orderKey w) :
    orderKey (clampNorm b v) = orderKey (clampNorm b w) := by
  obtain ⟨hmin, hmax, -, -, -⟩ := Build.range_of_wf hb
  have hmin' := not_isNaN_of_isFinite hmin
  have hmax' := not_isNaN_of_isFinite hmax
  simp only [clampNorm, fgt, flt_eq_decide hv hmin', flt_eq_decide hw hmin',
    flt_eq_decide hmax' hv, flt_eq_decide hmax' hw, h]
  split_ifs
  · rfl
  · rfl
  · exact h

/-- Values that compare equal have the same code: each stage reads the key of its operand alone, so the
sign of a zero is lost. -/
theorem q8_congr {w : F32} (hb : b.wf = true) (hv : isNaN v = false) (hw : isNaN w = false)
    (h : orderKey v = orderKey w) : q8 b v = q8 b w := by
  have hdiff : orderKey (fsub (clampNorm b v) b.normMin) =
      orderKey (fsub (clampNorm b w) b.normMin) := by
    rw [orderKey_difference hb hv, orderKey_difference hb hw,
      units_eq_of_orderKey_eq (orderKey_clampNorm_congr hb hv hw h)]
  have hquot : orderKey (fdiv (fsub (clampNorm b v) b.normMin) (fsub b.normMax b.normMin)) =
      orderKey (fdiv (fsub (clampNorm b w) b.normMin) (fsub b.normMax b.normMin)) := by
    rw [orderKey_quotient hb hv, orderKey_quotient hb hw, magUnits_eq_of_orderKey_eq hdiff]
  have hrescaled : orderKey (rescaled b v) = orderKey (rescaled b w) := by
    rw [orderKey_rescaled hb hv, orderKey_rescaled hb hw, magUnits_eq_of_orderKey_eq hquot]
  rw [q8_of_not_isNaN hv, q8_of_not_isNaN hw, trunc8, trunc8, magUnits_eq_of_orderKey_eq hrescaled]

/-- The code in the default range `[-1.0, 1.0]`. -/
theorem q8_of_default_range (hmin : b.normMin = fNegOne) (hmax : b.normMax = fOne) :
    q8 b v = q8 Config.defaultBuild v := by
  have hmin' : b.normMin = Config.defaultBuild.normMin := hmin
  have hmax' : b.normMax = Config.defaultBuild.normMax := hmax
  simp only [q8, rescaled, clampNorm, hmin', hmax']

end

/-- Settles O46: the stages by the monotone rounding, the listed codes by evaluation. -/
theorem quantizerStaysInRange : Obligations.QuantizerStaysInRange := by
  refine ⟨?nan, ?formula, ?range, ?ends, ?listed⟩
  case nan =>
    intro b v hv
    rw [q8, if_pos hv]
  case formula =>
    intro b v c hv hc
    subst hc
    exact ⟨rfl, rfl, q8_of_not_isNaN hv⟩
  case range =>
    intro b v hb hv
    obtain ⟨hmin, hmax, -, hspan, -⟩ := Build.range_of_wf hb
    have hrescaled := rescaled_between hb hv
    obtain ⟨hclamp, hclamp'⟩ := (clampNorm_between hb hv).fge_bounds hmin hmax
    obtain ⟨hdiff, hdiff'⟩ := (difference_between hb hv).fge_bounds isFinite_posZero hspan
    obtain ⟨hquot, hquot'⟩ := (quotient_between hb hv).fge_bounds isFinite_posZero isFinite_fOne
    obtain ⟨hs, hs'⟩ := hrescaled.fge_bounds isFinite_posZero isFinite_f255
    have hfloor : ((q8 b v).toNat : ℤ) = ⌊ratValue (rescaled b v)⌋ := by
      rw [q8_of_not_isNaN hv, trunc8_toNat hrescaled]
    exact ⟨hclamp, hclamp', hdiff, hdiff', hquot, hquot', hs, hs', hfloor,
      q8_of_difference_eq_span hb hv⟩
  case ends =>
    intro b hb
    exact ⟨q8_posInf hb, q8_negInf hb, q8_normMax hb,
      q8_congr hb (by decide) (by decide) (by decide)⟩
  case listed =>
    intro b hmin hmax
    simp only [q8_of_default_range hmin hmax]
    decide

end Sys2Proof.Machine

/-!
Proofs of the statements of 30_encoding.md: the decoder, the encoder and the opcode map each fix the
same five fields of a command word.
-/

namespace Sys2Proof

/-! ### The fields of a command (30_encoding.md R73, R75) -/

/-- The field values of a command's word; its zero field is always 0. -/
structure Fields where
  /-- `OP`. -/
  op : Nat
  /-- `CH`. -/
  ch : Nat
  /-- `F`. -/
  f : Nat
  /-- `IDX`. -/
  idx : Nat

def Instr.fields (i : Instr) : Fields :=
  match i with
  | .update => ⟨0x01, 0, 0, 0⟩
  | .treset => ⟨0x02, 0, 0, 0⟩
  | .map c e => ⟨0x03, c, encoderCode e, 0⟩
  | .clear => ⟨0x04, 0, 0, 0⟩
  | .finalize d => ⟨0x05, 0, byteOrderCode d, 0⟩
  | .genUpdatePoint c x => ⟨0x10, c, 0, x⟩
  | .genUpdate c => ⟨0x11, c, 0, 0⟩
  | .genReset c => ⟨0x12, c, 0, 0⟩
  | .genMask c x => ⟨0x13, c, 0, x⟩
  | .quantize c => ⟨0x20, c, 0, 0⟩
  | .formatLed => ⟨0x21, 0, 0, 0⟩

theorem encode_eq_commandWord (i : Instr) :
    encode i = commandWord i.fields.op i.fields.ch i.fields.f i.fields.idx := by
  cases i <;> rfl

theorem Instr.fields_op_lt (i : Instr) : i.fields.op < 256 := by
  cases i <;> simp only [Instr.fields] <;> omega

theorem Instr.fields_f_lt (i : Instr) : i.fields.f < 16 := by
  cases i with
  | map c e => exact encoderCode_lt e
  | finalize d => exact byteOrderCode_lt d
  | _ => exact Nat.zero_lt_succ _

/-- A command is well formed when its channel and its index fit their fields. -/
theorem Instr.wellFormed_iff (i : Instr) : i.WellFormed ↔ i.fields.ch < 16 ∧ i.fields.idx < 16384 := by
  cases i <;> simp [Instr.WellFormed, Instr.wellFormed, Instr.fields]

theorem encoderOf_eq_some_iff (f : Nat) (e : Encoder) : encoderOf f = some e ↔ encoderCode e = f := by
  constructor
  · match f with
    | 0 | 1 => rintro ⟨⟩; rfl
    | _ + 2 => rintro ⟨⟩
  · rintro rfl
    exact encoderOf_code e

theorem byteOrderOf_eq_some_iff (f : Nat) (d : ByteOrder) :
    byteOrderOf f = some d ↔ byteOrderCode d = f := by
  constructor
  · match f with
    | 0 | 1 => rintro ⟨⟩; rfl
    | _ + 2 => rintro ⟨⟩
  · rintro rfl
    exact byteOrderOf_code d

theorem whenZero_eq_ok_iff (z : Bool) (i j : Instr) : whenZero z i = .ok j ↔ z = true ∧ i = j := by
  cases z <;> simp [whenZero]

/-- A word decodes to a command exactly when its fields are the command's: every field that the opcode
does not use is 0 on both sides. -/
theorem decode_eq_ok_iff (w : Word) (i : Instr) : decode w = .ok i ↔ zeroField w = 0 ∧
    opField w = i.fields.op ∧ chField w = i.fields.ch ∧ fField w = i.fields.f ∧
      idxField w = i.fields.idx := by
  constructor
  · intro h
    unfold decode at h
    dsimp only at h
    split at h
    case h_3 hop =>
      split at h
      case h_1 e he =>
        rw [encoderOf_eq_some_iff] at he
        simp only [whenZero_eq_ok_iff, Bool.and_eq_true, beq_iff_eq] at h
        obtain ⟨⟨hz, hi⟩, rfl⟩ := h
        simp [Instr.fields, hz, hi, hop, he]
      case h_2 => cases h
    case h_5 hop =>
      split at h
      case h_1 d hd =>
        rw [byteOrderOf_eq_some_iff] at hd
        simp only [whenZero_eq_ok_iff, Bool.and_eq_true, beq_iff_eq] at h
        obtain ⟨⟨⟨hc, hz⟩, hi⟩, rfl⟩ := h
        simp [Instr.fields, hc, hz, hi, hop, hd]
      case h_2 => cases h
    case h_12 => cases h
    all_goals
      simp only [whenZero_eq_ok_iff, Bool.and_eq_true, beq_iff_eq] at h
      obtain ⟨_, rfl⟩ := h
      simp_all [Instr.fields]
  · rintro ⟨hz, hop, hc, hf, hi⟩
    cases i <;> simp only [Instr.fields] at hop hc hf hi <;> simp [decode, whenZero, hop, hc, hf, hi, hz]

/-- Settles O1: the word of a command has the command's fields. -/
theorem decodeOfEncodeIsTheCommand : Obligations.DecodeOfEncodeIsTheCommand := by
  intro i hwf
  obtain ⟨hc, hi⟩ := i.wellFormed_iff.1 hwf
  have hop := i.fields_op_lt
  have hf := i.fields_f_lt
  rw [decode_eq_ok_iff, encode_eq_commandWord, zeroField_commandWord hop hc hf hi,
    opField_commandWord hop hc hf hi, chField_commandWord hop hc hf hi,
    fField_commandWord hop hc hf hi, idxField_commandWord hop hc hf hi]
  exact ⟨rfl, rfl, rfl, rfl, rfl⟩

/-- Settles O2: a word is put together from its fields, which fit their places. -/
theorem encodeOfDecodeIsTheWord : Obligations.EncodeOfDecodeIsTheWord := by
  intro w i hdecode
  obtain ⟨hz, hop, hch, hf, hidx⟩ := (decode_eq_ok_iff w i).1 hdecode
  obtain ⟨-, hc, -, -, hi⟩ := field_bounds w
  rw [encode_eq_commandWord, Instr.wellFormed_iff, ← hop, ← hch, ← hf, ← hidx]
  exact ⟨commandWord_of_fields w hz, hc, hi⟩

/-! ### The rows of the opcode map (30_encoding.md R75) -/

/-- Two words are equal when their fields are. -/
theorem word_ext_fields {v w : Word} (hop : v.extractLsb' 24 8 = w.extractLsb' 24 8)
    (hc : v.extractLsb' 20 4 = w.extractLsb' 20 4) (hf : v.extractLsb' 16 4 = w.extractLsb' 16 4)
    (hz : v.extractLsb' 14 2 = w.extractLsb' 14 2) (hi : v.extractLsb' 0 14 = w.extractLsb' 0 14) :
    v = w := by
  apply BitVec.eq_of_toNat_eq
  rw [word_eq_fields v, word_eq_fields w]
  simp only [opField, chField, fField, zeroField, idxField, hop, hc, hf, hz, hi]

/-- A word matches a row field by field. -/
theorem matchesRow_iff (w : Word) (r : OpRow) : matchesRow w r = true ↔
    w.extractLsb' 24 8 &&& r.mask.extractLsb' 24 8 = r.value.extractLsb' 24 8 ∧
    w.extractLsb' 20 4 &&& r.mask.extractLsb' 20 4 = r.value.extractLsb' 20 4 ∧
    w.extractLsb' 16 4 &&& r.mask.extractLsb' 16 4 = r.value.extractLsb' 16 4 ∧
    w.extractLsb' 14 2 &&& r.mask.extractLsb' 14 2 = r.value.extractLsb' 14 2 ∧
    w.extractLsb' 0 14 &&& r.mask.extractLsb' 0 14 = r.value.extractLsb' 0 14 := by
  simp only [matchesRow, beq_iff_eq, ← BitVec.extractLsb'_and]
  constructor
  · intro h
    simp only [h, and_self]
  · rintro ⟨hop, hc, hf, hz, hi⟩
    exact word_ext_fields hop hc hf hz hi

/-- The bits of the CH, F and IDX fields that a command's row wants zero (30_encoding.md R76). -/
structure UnusedBits where
  /-- In `CH`. -/
  ch : BitVec 4
  /-- In `F`. -/
  f : BitVec 4
  /-- In `IDX`. -/
  idx : BitVec 14

def Instr.unusedBits (i : Instr) : UnusedBits :=
  match i with
  | .map _ _ => ⟨0x0#4, 0xE#4, 0x3FFF#14⟩
  | .finalize _ => ⟨0xF#4, 0xE#4, 0x3FFF#14⟩
  | .genUpdatePoint _ _ | .genMask _ _ => ⟨0x0#4, 0xF#4, 0x0000#14⟩
  | .genUpdate _ | .genReset _ | .quantize _ => ⟨0x0#4, 0xF#4, 0x3FFF#14⟩
  | .update | .treset | .clear | .formatLed => ⟨0xF#4, 0xF#4, 0x3FFF#14⟩

/-- The mask of a row covers the opcode, the unused bits and the zero field. -/
theorem opRow_mask (i : Instr) : (opRow i).mask.extractLsb' 24 8 = 0xFF#8 ∧
    (opRow i).mask.extractLsb' 20 4 = i.unusedBits.ch ∧
    (opRow i).mask.extractLsb' 16 4 = i.unusedBits.f ∧
    (opRow i).mask.extractLsb' 14 2 = 0x3#2 ∧
    (opRow i).mask.extractLsb' 0 14 = i.unusedBits.idx := by
  cases i <;> simp only [opRow, Instr.unusedBits] <;> decide

/-- The value of a row is its opcode. -/
theorem opRow_value (i : Instr) : ((opRow i).value.extractLsb' 24 8).toNat = i.fields.op ∧
    (opRow i).value.extractLsb' 20 4 = 0#4 ∧ (opRow i).value.extractLsb' 16 4 = 0#4 ∧
    (opRow i).value.extractLsb' 14 2 = 0#2 ∧ (opRow i).value.extractLsb' 0 14 = 0#14 := by
  cases i <;> simp only [opRow, Instr.fields] <;> decide

theorem matchesRow_opRow_iff (w : Word) (i : Instr) : matchesRow w (opRow i) = true ↔
    opField w = i.fields.op ∧ zeroField w = 0 ∧ w.extractLsb' 20 4 &&& i.unusedBits.ch = 0#4 ∧
      w.extractLsb' 16 4 &&& i.unusedBits.f = 0#4 ∧ w.extractLsb' 0 14 &&& i.unusedBits.idx = 0#14 := by
  obtain ⟨mop, mc, mf, mz, mi⟩ := opRow_mask i
  obtain ⟨vop, vc, vf, vz, vi⟩ := opRow_value i
  have hop : w.extractLsb' 24 8 &&& 0xFF#8 = w.extractLsb' 24 8 := BitVec.and_allOnes
  have hz : w.extractLsb' 14 2 &&& 0x3#2 = w.extractLsb' 14 2 := BitVec.and_allOnes
  rw [matchesRow_iff, mop, mc, mf, mz, mi, vc, vf, vz, vi, hop, hz, ← vop, opField, zeroField,
    BitVec.toNat_inj, ← BitVec.toNat_inj (x := w.extractLsb' 14 2)]
  exact ⟨fun ⟨h1, h2, h3, h4, h5⟩ => ⟨h1, h4, h2, h3, h5⟩,
    fun ⟨h1, h4, h2, h3, h5⟩ => ⟨h1, h2, h3, h4, h5⟩⟩

/-! What the unused bits of a field ask of it. -/

theorem ch_unused_iff (w : Word) : w.extractLsb' 20 4 &&& 0xF#4 = 0#4 ↔ chField w = 0 := by
  rw [show w.extractLsb' 20 4 &&& 0xF#4 = w.extractLsb' 20 4 from BitVec.and_allOnes, chField,
    ← BitVec.toNat_inj]
  rfl

theorem f_unused_iff (w : Word) : w.extractLsb' 16 4 &&& 0xF#4 = 0#4 ↔ fField w = 0 := by
  rw [show w.extractLsb' 16 4 &&& 0xF#4 = w.extractLsb' 16 4 from BitVec.and_allOnes, fField,
    ← BitVec.toNat_inj]
  rfl

/-- MAP and FINALIZE use bit 0 of F alone (30_encoding.md R81, R82). -/
theorem f_selector_iff (w : Word) : w.extractLsb' 16 4 &&& 0xE#4 = 0#4 ↔ fField w < 2 := by
  rw [fField]
  generalize w.extractLsb' 16 4 = f
  revert f
  decide

theorem idx_unused_iff (w : Word) : w.extractLsb' 0 14 &&& 0x3FFF#14 = 0#14 ↔ idxField w = 0 := by
  rw [show w.extractLsb' 0 14 &&& 0x3FFF#14 = w.extractLsb' 0 14 from BitVec.and_allOnes, idxField,
    ← BitVec.toNat_inj]
  rfl

theorem exists_encoderCode {f : Nat} (h : f < 2) : ∃ e, encoderCode e = f := by
  interval_cases f
  · exact ⟨.lane, rfl⟩
  · exact ⟨.led, rfl⟩

theorem exists_byteOrderCode {f : Nat} (h : f < 2) : ∃ d, byteOrderCode d = f := by
  interval_cases f
  · exact ⟨.little, rfl⟩
  · exact ⟨.big, rfl⟩

theorem encoderCode_lt_two (e : Encoder) : encoderCode e < 2 := by cases e <;> decide

theorem byteOrderCode_lt_two (d : ByteOrder) : byteOrderCode d < 2 := by cases d <;> decide

theorem opRow_mem_opRows (i : Instr) : opRow i ∈ opRows := by
  cases i <;> simp [opRows, opRow]

theorem mem_opRows_iff (r : OpRow) : r ∈ opRows ↔ ∃ i, opRow i = r := by
  constructor
  · intro h
    simp only [opRows, List.mem_cons, List.not_mem_nil, or_false] at h
    rcases h with h | h | h | h | h | h | h | h | h | h | h <;> exact ⟨_, h.symm⟩
  · rintro ⟨i, rfl⟩
    exact opRow_mem_opRows i

/-- A word that decodes matches the row of its command. -/
theorem matchesRow_of_decode {w : Word} {i : Instr} (h : decode w = .ok i) :
    matchesRow w (opRow i) = true := by
  obtain ⟨hz, hop, hc, hf, hi⟩ := (decode_eq_ok_iff w i).1 h
  rw [matchesRow_opRow_iff]
  refine ⟨hop, hz, ?_⟩
  cases i with
  | map c e =>
    exact ⟨BitVec.and_zero, (f_selector_iff w).2 (hf ▸ encoderCode_lt_two e), (idx_unused_iff w).2 hi⟩
  | finalize d =>
    exact ⟨(ch_unused_iff w).2 hc, (f_selector_iff w).2 (hf ▸ byteOrderCode_lt_two d),
      (idx_unused_iff w).2 hi⟩
  | genUpdatePoint | genMask => exact ⟨BitVec.and_zero, (f_unused_iff w).2 hf, BitVec.and_zero⟩
  | genUpdate | genReset | quantize =>
    exact ⟨BitVec.and_zero, (f_unused_iff w).2 hf, (idx_unused_iff w).2 hi⟩
  | update | treset | clear | formatLed =>
    exact ⟨(ch_unused_iff w).2 hc, (f_unused_iff w).2 hf, (idx_unused_iff w).2 hi⟩

/-- A word that matches a row decodes: to the row's command with the word's own operands. -/
theorem decode_of_matchesRow {w : Word} {i : Instr} (h : matchesRow w (opRow i) = true) :
    ∃ j, decode w = .ok j := by
  simp only [decode_eq_ok_iff]
  obtain ⟨hop, hz, hc, hf, hi⟩ := (matchesRow_opRow_iff w i).1 h
  cases i with
  | map c e =>
    obtain ⟨e', he⟩ := exists_encoderCode ((f_selector_iff w).1 hf)
    exact ⟨.map (chField w) e', hz, hop, rfl, he.symm, (idx_unused_iff w).1 hi⟩
  | finalize d =>
    obtain ⟨d', hd⟩ := exists_byteOrderCode ((f_selector_iff w).1 hf)
    exact ⟨.finalize d', hz, hop, (ch_unused_iff w).1 hc, hd.symm, (idx_unused_iff w).1 hi⟩
  | genUpdatePoint c x =>
    exact ⟨.genUpdatePoint (chField w) (idxField w), hz, hop, rfl, (f_unused_iff w).1 hf, rfl⟩
  | genMask c x =>
    exact ⟨.genMask (chField w) (idxField w), hz, hop, rfl, (f_unused_iff w).1 hf, rfl⟩
  | genUpdate c =>
    exact ⟨.genUpdate (chField w), hz, hop, rfl, (f_unused_iff w).1 hf, (idx_unused_iff w).1 hi⟩
  | genReset c =>
    exact ⟨.genReset (chField w), hz, hop, rfl, (f_unused_iff w).1 hf, (idx_unused_iff w).1 hi⟩
  | quantize c =>
    exact ⟨.quantize (chField w), hz, hop, rfl, (f_unused_iff w).1 hf, (idx_unused_iff w).1 hi⟩
  | update =>
    exact ⟨.update, hz, hop, (ch_unused_iff w).1 hc, (f_unused_iff w).1 hf, (idx_unused_iff w).1 hi⟩
  | treset =>
    exact ⟨.treset, hz, hop, (ch_unused_iff w).1 hc, (f_unused_iff w).1 hf, (idx_unused_iff w).1 hi⟩
  | clear =>
    exact ⟨.clear, hz, hop, (ch_unused_iff w).1 hc, (f_unused_iff w).1 hf, (idx_unused_iff w).1 hi⟩
  | formatLed =>
    exact ⟨.formatLed, hz, hop, (ch_unused_iff w).1 hc, (f_unused_iff w).1 hf,
      (idx_unused_iff w).1 hi⟩

/-- No two rows have the same opcode. -/
theorem opRows_opcode_injective : ∀ r ∈ opRows, ∀ r' ∈ opRows,
    r.value.extractLsb' 24 8 = r'.value.extractLsb' 24 8 → r = r' := by decide

theorem opRow_eq_of_op_eq {i j : Instr} (h : i.fields.op = j.fields.op) : opRow i = opRow j := by
  obtain ⟨hi, -⟩ := opRow_value i
  obtain ⟨hj, -⟩ := opRow_value j
  exact opRows_opcode_injective _ (opRow_mem_opRows i) _ (opRow_mem_opRows j)
    (BitVec.eq_of_toNat_eq (by rw [hi, hj, h]))

/-- Settles O3: a word decodes to a command exactly when it matches a row, and the row is fixed by the
opcode. -/
theorem decodeAcceptsExactlyTheOpcodeRows : Obligations.DecodeAcceptsExactlyTheOpcodeRows := by
  refine ⟨fun w => ⟨?unique, ?accepted⟩, fun w i h => ⟨opRow_mem_opRows i, matchesRow_of_decode h⟩⟩
  case unique =>
    rintro ⟨i, hi⟩
    have hmatch := matchesRow_of_decode hi
    refine ⟨opRow i, ⟨opRow_mem_opRows i, hmatch⟩, ?_⟩
    rintro r ⟨hr, hw⟩
    obtain ⟨j, rfl⟩ := (mem_opRows_iff r).1 hr
    have hop := ((matchesRow_opRow_iff w i).1 hmatch).1
    have hop' := ((matchesRow_opRow_iff w j).1 hw).1
    exact opRow_eq_of_op_eq (hop'.symm.trans hop)
  case accepted =>
    rintro ⟨r, ⟨hr, hw⟩, -⟩
    obtain ⟨i, rfl⟩ := (mem_opRows_iff r).1 hr
    exact decode_of_matchesRow hw

/-- Settles O4, by evaluation of the decoder on each word. -/
theorem wordsOfTheTableDecode : Obligations.WordsOfTheTableDecode := by
  unfold Obligations.WordsOfTheTableDecode
  decide

end Sys2Proof

/-!
Proofs of the statements about one step and the registers behind the port: what each kind of transaction
does, where the registers stand, and the two-step pseudo-instructions.
-/

namespace Sys2Proof.Machine

/-! ### One step (00_scope.md R22, 60_exceptions.md R135) -/

/-- A 32-bit write to `G.CMD` runs its word as a command. -/
theorem busWrite_cmd (w : Word) (s : State) : busWrite 0x000008#24 (.word w) s = runCommand w s := rfl

/-- Settles O5. -/
theorem stepRunsTheWrittenCommand : Obligations.StepRunsTheWrittenCommand := by
  intro s w i rest hpending hdecode
  rw [step_write hpending, busWrite_cmd, runCommand_ok _ hdecode]

/-- Each kind of event leads to a next state. -/
theorem perform_completes (e : HostEvent) (s : State) : Completes (perform e s) := by
  cases e with
  | read a n => exact ⟨_, rfl⟩
  | write a v =>
    obtain ⟨t, ht, -⟩ := busWrite_keeps_layout a v s
    exact ⟨t, ht⟩
  | reset => exact ⟨_, rfl⟩

/-- Settles O8: idle or not, a step leads to a next state, and so does every command. -/
theorem everyStepAnswersANextState : Obligations.EveryStepAnswersANextState := by
  refine ⟨fun s => ?step, fun i s => ?command⟩
  case step =>
    cases hp : s.pending with
    | nil => exact ⟨s, step_idle s hp⟩
    | cons e rest =>
      rw [step_perform s e rest hp]
      exact perform_completes e _
  case command =>
    obtain ⟨t, ht, -⟩ := exec_keeps_layout i s
    exact ⟨t, ht⟩

/-- A read does not look at the port. -/
theorem busRead_setPort (s : State) (q : List HostEvent) (r : Option PortData) (a : Addr)
    (n : AccessSize) : busRead (s.setPort q r) a n = busRead s a n := by
  have htarget : ∀ t, readTarget (s.setPort q r) n t = readTarget s n t := by
    intro t
    cases t with
    | globalReg r => cases r <;> rfl
    | frame k => cases n <;> rfl
    | channelReg | raw | samples | mask | empty => rfl
  simp only [busRead, htarget, State.setPort_build]

/-- Settles O9: each read leaves its answer alone, which is a reading of the rest of the state. -/
theorem readsAreIdempotent : Obligations.ReadsAreIdempotent := by
  intro s a n rest hpending
  have hfirst := step_read hpending
  have hsecond := step_read (s := s.setPort (.read a n :: rest) (some (busRead s a n))) rfl
  rw [busRead_setPort] at hsecond
  exact ⟨_, _, hfirst, hsecond, rfl, rfl, rfl, rfl⟩

/-- Settles O10. -/
theorem resetPulseGivesTheResetState : Obligations.ResetPulseGivesTheResetState := by
  intro s rest hpending
  rw [step_perform s _ _ hpending]
  rfl

/-- Settles O13. -/
theorem resetOfEveryBuildMeetsTheInvariant : Obligations.ResetOfEveryBuildMeetsTheInvariant :=
  fun _ hb => resetOf_inv hb

/-- Settles O12: the default build is a legal one. -/
theorem resetMeetsTheInvariant : Obligations.ResetMeetsTheInvariant :=
  resetOf_inv (b := Config.defaultBuild) (by decide)

/-! ### Where the registers stand (20_memory.md R56, R57) -/

/-- The address of a global register names it. -/
theorem targetOf_globalReg (b : Build) (r : GlobalReg) :
    targetOf b (regAddr (.global r)) = .globalReg r := by
  cases r <;> rfl

/-- The address of a channel register names it where the channel exists, and nothing elsewhere. -/
theorem targetOf_channelReg_eq_ite (b : Build) {j : Nat} (hj : j < 16) (r : ChannelReg) :
    targetOf b (regAddr (.channel j r)) = if j < b.channels then .channelReg j r else .empty := by
  split_ifs with hb
  · exact targetOf_channelReg hj hb r
  · have hr := channelOffset_lt r
    rw [regAddr, targetOf_channelWindow b hj hr]
    exact channelTarget_of_absent (by omega)

/-- Settles O17: the written-out addresses are those of `regAddr`. -/
theorem registerNamesNameTheirRegisters : Obligations.RegisterNamesNameTheirRegisters := by
  refine ⟨targetOf_globalReg, fun b j r hj => targetOf_channelReg_eq_ite b hj r, ?globals, ?channels⟩
  case globals =>
    intro b x hx
    have haddr : regAddr (.global x.1) = x.2 := by
      simp only [List.mem_cons, List.not_mem_nil, or_false] at hx
      rcases hx with rfl | rfl | rfl | rfl | rfl | rfl | rfl | rfl | rfl <;> rfl
    exact ⟨haddr, haddr ▸ targetOf_globalReg b x.1⟩
  case channels =>
    intro b j hj x hx
    have hoffset : channelOffset x.1 = x.2 := by
      simp only [List.mem_cons, List.not_mem_nil, or_false] at hx
      rcases hx with rfl | rfl | rfl | rfl | rfl | rfl | rfl | rfl | rfl | rfl <;> rfl
    rw [← hoffset]
    exact ⟨channelWindow_toNat hj (channelOffset_lt x.1), targetOf_channelReg_eq_ite b hj x.1⟩

/-! ### The global registers (10_state.md R27, R40 to R44) -/

/-- The five bits that `G.LED_BRIGHTNESS` keeps of a written word. -/
theorem brightness_readback (w : Word) : 0#27 ++ w.setWidth 5 = w &&& 0x1F#32 := by
  apply BitVec.eq_of_toNat_eq
  rw [toNat_append_eq_add, BitVec.toNat_and, BitVec.toNat_setWidth,
    show (0x1F#32).toNat = 2 ^ 5 - 1 from rfl, Nat.and_two_pow_sub_one_eq_mod]
  simp

/-- Settles O20: each access is that of its register. -/
theorem globalRegisterWritesStore : Obligations.GlobalRegisterWritesStore := by
  refine ⟨fun s w => ⟨rfl, rfl, rfl, rfl, ?led, ?readback⟩, fun s => ⟨rfl, rfl, rfl, rfl, rfl, rfl⟩⟩
  case led =>
    have hbits : w.extractLsb' 0 5 = w.setWidth 5 := by
      apply BitVec.eq_of_toNat_eq
      rw [BitVec.extractLsb'_toNat, BitVec.toNat_setWidth, Nat.shiftRight_zero]
    rw [← hbits]
    rfl
  case readback =>
    rw [← brightness_readback]
    rfl

/-- The two flags as numbers. -/
theorem twoBits_eq_or (hi lo : Bool) :
    0#30 ++ BitVec.ofBool hi ++ BitVec.ofBool lo =
      (if lo then 1#32 else 0#32) ||| (if hi then 2#32 else 0#32) := by
  cases hi <;> cases lo <;> rfl

/-- Settles O22: bit 0 of the written word decides which of the two branches is taken. -/
theorem statusIsWriteOneToClear : Obligations.StatusIsWriteOneToClear := by
  intro s
  refine ⟨congrArg PortData.word (twoBits_eq_or s.notfound s.badcmd), fun w => ?_⟩
  have hwrite : transact (.write 0x000004#24 (.word w)) s =
      .next (writeStatus { s with reply := none } w) := rfl
  rw [hwrite, writeStatus]
  cases w.getLsbD 0 with
  | true => simp [State.setBadcmd]
  | false => simp

/-! ### The channel registers (10_state.md R28, R30 to R33) -/

/-- Settles O24: a read and a write by the rules for channel registers. -/
theorem ctrlHoldsEnableAndTimeAdvance : Obligations.CtrlHoldsEnableAndTimeAdvance := by
  intro s j w hinv hj
  have hj16 := hinv.channel_lt hj
  rw [busRead_channelReg hj16 hj .ctrl, transact_write_channelReg hj16 hj .ctrl w, ← twoBits_eq_or]
  exact ⟨rfl, rfl⟩

/-- A channel put back in the build is there. -/
theorem chan_set_channels {s : State} {j : Nat} (hj : j < s.channels.length) (ch : Channel) :
    (s.setChan j ch).chan j = ch := by
  rw [chan_setChan, if_pos ⟨rfl, hj⟩]

theorem State.Inv.channels_length {s : State} (h : s.Inv) : s.channels.length = s.build.channels := by
  obtain ⟨-, hlen, -⟩ := (State.inv_iff s).1 h
  exact hlen

/-- The float registers of a channel that the host can write (10_state.md R28, R31). -/
def ChannelReg.holdsFloat (r : ChannelReg) : Bool :=
  match r with
  | .amplitude | .frequency | .phase | .offset | .pdt | .step => true
  | .shapeMode | .ctrl | .time | .cache => false

/-- A written float register holds every pattern, and the others what they held. -/
theorem readChannel_writeChannel {r : ChannelReg} (hr : r.holdsFloat = true) (w : Word)
    (ch : Channel) (r' : ChannelReg) :
    readChannel (writeChannel r w ch) r' = if r' = r then w else readChannel ch r' := by
  cases r <;> cases hr <;> cases r' <;> rfl

/-- A write to a channel register keeps the buffers and the random source. -/
theorem writeChannel_frame (r : ChannelReg) (w : Word) (ch : Channel) :
    (writeChannel r w ch).samples = ch.samples ∧ (writeChannel r w ch).raw = ch.raw ∧
      (writeChannel r w ch).mask = ch.mask ∧ (writeChannel r w ch).rng = ch.rng := by
  cases r <;> exact ⟨rfl, rfl, rfl, rfl⟩

/-- Settles O25: the accesses by the rules for channel registers, the values by `readChannel`. -/
theorem channelFloatRegistersStoreEveryPattern : Obligations.ChannelFloatRegistersStoreEveryPattern := by
  intro s j w hinv hj
  have hj16 := hinv.channel_lt hj
  have hlen : j < s.channels.length := by rw [hinv.channels_length]; exact hj
  refine ⟨?read, ?write, ?readOnly⟩
  case read =>
    intro x hx
    rw [busRead_channelReg hj16 hj]
    simp only [List.mem_cons, List.not_mem_nil, or_false] at hx
    rcases hx with rfl | rfl | rfl | rfl | rfl | rfl | rfl | rfl <;> rfl
  case write =>
    intro r hr
    have hfloat : r.holdsFloat = true := by
      simp only [List.mem_cons, List.not_mem_nil, or_false] at hr
      rcases hr with rfl | rfl | rfl | rfl | rfl | rfl <;> rfl
    have hread := readChannel_writeChannel hfloat w (s.chan j)
    obtain ⟨t, ht⟩ : ∃ t, t = (s.setPort s.pending none).setChan j (writeChannel r w (s.chan j)) :=
      ⟨_, rfl⟩
    have hwrite : transact (.write (regAddr (.channel j r)) (.word w)) s = .next t := by
      rw [transact_write_channelReg hj16 hj, ht]
      rfl
    have hbuild : j < t.build.channels := by rw [ht]; exact hj
    have hchan : t.chan j = writeChannel r w (s.chan j) := by
      rw [ht]
      exact chan_set_channels (s := s.setPort s.pending none) hlen _
    refine ⟨t, hwrite, ?_⟩
    rw [busRead_channelReg hj16 hbuild, hchan, hread, if_pos rfl]
    exact ⟨rfl, fun r' hne => (hread r').trans (if_neg hne), ht, writeChannel_frame r w (s.chan j)⟩
  case readOnly =>
    have hset : s.channels.set j (s.chan j) = s.channels := by
      rw [State.chan, List.getD_eq_getElem _ _ hlen, List.set_getElem_self]
    intro r hr
    rw [transact_write_channelReg hj16 hj]
    simp only [List.mem_cons, List.not_mem_nil, or_false] at hr
    rcases hr with rfl | rfl <;> simp only [writeChannel, hset]

/-! ### ENABLE and TIMEADV (30_encoding.md R86) -/

@[simp] theorem andThen_next (s : State) (f : State → Host.Outcome State Fault Refusal) :
    andThen (.next s) f = f s := rfl

/-- The read and the write of a control register, as one change of its two bits. -/
theorem runPseudo_updateCtrl {s : State} {j : Nat} (hinv : s.Inv) (hj : j < s.build.channels)
    (keep set : Word) : runActions [.updateCtrl j keep set] s =
      .next { s with
        channels := s.channels.set j (writeCtrl (s.chan j) (ctrlWord (s.chan j) &&& keep ||| set))
        reply := none } := by
  have hj16 := hinv.channel_lt hj
  have hread : transact (.read (regAddr (.channel j .ctrl)) .word) s =
      .next { s with reply := some (.word (ctrlWord (s.chan j))) } := by
    have hvalue := busRead_channelReg hj16 hj .ctrl
    rw [transact, step_read rfl]
    exact congrArg (fun v => Host.Outcome.next { s with reply := some v }) hvalue
  have hwrite := transact_write_channelReg
    (s := { s with reply := some (.word (ctrlWord (s.chan j))) }) hj16 hj .ctrl
    (ctrlWord (s.chan j) &&& keep ||| set)
  rw [runActions, runAction, hread, andThen_next]
  exact (congrArg (andThen · _) hwrite).trans rfl

/-- The two bits of `CH[j].CTRL` (10_state.md R30). -/
theorem ctrlWord_bits (ch : Channel) :
    (ctrlWord ch)[0] = ch.en ∧ (ctrlWord ch)[1] = ch.tadv := by
  unfold ctrlWord
  cases ch.en <;> cases ch.tadv <;> exact ⟨rfl, rfl⟩

theorem writeCtrl_enable (ch : Channel) (b : Bool) :
    writeCtrl ch (ctrlWord ch &&& 0x2#32 ||| (BitVec.ofBool b).setWidth 32) = { ch with en := b } := by
  obtain ⟨-, htadv⟩ := ctrlWord_bits ch
  cases b <;> simp [writeCtrl, Channel.setCtrl, htadv]

theorem writeCtrl_timeAdv (ch : Channel) (b : Bool) :
    writeCtrl ch (ctrlWord ch &&& 0x1#32 ||| (BitVec.ofBool b).setWidth 32 <<< 1) =
      { ch with tadv := b } := by
  obtain ⟨hen, -⟩ := ctrlWord_bits ch
  cases b <;> simp [writeCtrl, Channel.setCtrl, hen]

/-- Settles O57: one bit of CTRL is kept and the other put. -/
theorem enableAndTimeadvSetTheirBit : Obligations.EnableAndTimeadvSetTheirBit := by
  intro s j b hinv hj
  simp only [runPseudo, expandPseudo, runPseudo_updateCtrl hinv hj, writeCtrl_enable,
    writeCtrl_timeAdv, and_self]

end Sys2Proof.Machine

/-!
Proofs of the statements of 40_waveform.md sections 2 to 4 and of UPDATE: a loop that evaluates every
index, round by round, and the GEN_* commands on a channel of the build.
-/

namespace Sys2Proof.Machine

/-! ### Loops and lists -/

/-- A loop whose state after each round is known. -/
theorem forUpto_eq {α : Type} {n : Nat} {body : Nat → α → α} (after : Nat → α)
    (round : ∀ m, m < n → body m (after m) = after (m + 1)) : forUpto n body (after 0) = after n :=
  forUpto_induct (fun m x => x = after m) rfl fun m hm x hx => by rw [hx, round m hm]

/-- A loop that reads a part of the state which no round changes. -/
theorem forUpto_of_kept {α β : Type} (π : α → β) (body : β → Nat → α → α)
    (kept : ∀ b i x, π (body b i x) = π x) (n : Nat) (a : α) :
    forUpto n (fun i x => body (π x) i x) a = forUpto n (body (π a)) a := by
  induction n with
  | zero => rfl
  | succ n ih => rw [forUpto_succ, forUpto_succ, ih, forUpto_keeps π (kept (π a))]

/-- Writing every element of a list, one after another. -/
theorem forUpto_set_const {α : Type} (g : Nat → α) {l : List α} {n : Nat} (hn : l.length = n) :
    forUpto n (fun i l => l.set i (g i)) l = (List.range n).map g := by
  subst hn
  cases l with
  | nil => rfl
  | cons d l =>
    rw [forUpto_set_all d (fun i _ => g i)]
    apply List.ext_getElem
    · simp
    · intro i hi hi'
      rw [List.getElem_mapIdx, List.getElem_map, List.getElem_range]

theorem forUpto_set_replicate {α : Type} (v : α) {l : List α} {n : Nat} (hn : l.length = n) :
    forUpto n (fun i l => l.set i v) l = List.replicate n v := by
  rw [forUpto_set_const (fun _ => v) hn, List.map_const', List.length_range]

theorem set_getD_self {α : Type} (l : List α) (i : Nat) (d : α) : l.set i (l.getD i d) = l := by
  by_cases h : i < l.length
  · rw [List.getD_eq_getElem _ _ h, List.set_getElem_self]
  · exact List.set_eq_of_length_le (by omega)

/-! ### Channels of the build -/

@[simp] theorem setChan_chan_self (s : State) (j : Nat) : s.setChan j (s.chan j) = s := by
  rw [State.setChan, State.chan, set_getD_self]

/-- A channel of a sized state has buffers of POINTS elements. -/
theorem State.Inv.chan_lengths {s : State} (h : s.Inv) {j : Nat} (hj : j < s.build.channels) :
    (s.chan j).samples.length = s.build.points ∧ (s.chan j).mask.length = s.build.points ∧
      (s.chan j).raw.length = s.build.points := by
  obtain ⟨-, hlen, -, hch⟩ := (State.inv_iff s).1 h
  have hj' : j < s.channels.length := by omega
  rw [State.chan, List.getD_eq_getElem _ _ hj']
  exact hch _ (List.getElem_mem hj')

theorem State.Inv.points_pos {s : State} (h : s.Inv) : 1 ≤ s.build.points := by
  obtain ⟨hwf, -⟩ := (State.inv_iff s).1 h
  obtain ⟨-, -, hpoints, -⟩ := (Build.wf_iff s.build).1 hwf
  exact hpoints

theorem onGenerator_of_lt {s : State} {c : Nat} (hc : c < s.build.channels) (body : State → State) :
    onGenerator s c body = body (s.setNotfound false) := by
  simp [onGenerator, markFound, Nat.not_le.2 hc]

theorem onGenerator_of_ge {s : State} {c : Nat} (hc : s.build.channels ≤ c) (body : State → State) :
    onGenerator s c body = s.setNotfound true := by
  simp [onGenerator, markFound, hc]

/-- Settles O38: NOTFOUND is all that a GEN_* command writes without its channel. -/
theorem missingGeneratorSetsNotfoundOnly : Obligations.MissingGeneratorSetsNotfoundOnly := by
  intro s c i hc
  have missing : ∀ body, Host.Outcome.next (φ := Fault) (ρ := Refusal) (onGenerator s c body) =
      .next { s with notfound := true } := fun body =>
    congrArg Host.Outcome.next (onGenerator_of_ge hc body)
  exact ⟨missing _, missing _, missing _, missing _⟩

/-! ### An evaluation of every index (40_waveform.md R95, R98, R104) -/

section
variable (ch : Channel) (t dt : F32)

/-- The channel after `m` rounds of an evaluation of every index. -/
def evaluated (m : Nat) : Channel :=
  { ch with
    samples := forUpto m (fun i l => l.set i (sampleValue ch.params ch.rng t dt i)) ch.samples
    cache := if m = 0 then ch.cache else evalShape ch.params ch.rng t dt 0
    rng := rngBefore ch.params ch.rng (if caching ch.params then min m 1 else m) }

theorem evaluated_zero : evaluated ch t dt 0 = ch := by
  simp [evaluated, rngBefore]

theorem rngBefore_succ (p : Params) (rng m : Nat) :
    rngBefore p rng (m + 1) = evalRng p (rngBefore p rng m) :=
  Function.iterate_succ_apply' (evalRng p) m rng

/-- Round `m` takes the value that a whole evaluation has at index `m`: the cache where it is read,
which round 0 filled, and else a value of the random source as `m` draws left it. -/
theorem pointValue_evaluated (m : Nat) :
    pointValue (evaluated ch t dt m) t dt m = sampleValue ch.params ch.rng t dt m := by
  cases m with
  | zero => simp [evaluated_zero, pointValue, readsCache, sampleValue, rngBefore]
  | succ m => cases h : caching ch.params <;> simp [evaluated, pointValue, readsCache, sampleValue, h]

/-- Round `m` draws where it evaluates. -/
theorem pointRng_evaluated (m : Nat) :
    pointRng (evaluated ch t dt m) m = (evaluated ch t dt (m + 1)).rng := by
  cases m with
  | zero => simp [evaluated, pointRng, readsCache, rngBefore]
  | succ m => cases h : caching ch.params <;> simp [evaluated, pointRng, readsCache, h, rngBefore_succ]

theorem updatePoint_evaluated {points m : Nat} (hm : m < points) :
    updatePoint points (evaluated ch t dt m) t dt m = evaluated ch t dt (m + 1) := by
  rw [updatePoint, if_pos hm, storePoint, pointValue_evaluated, pointRng_evaluated]
  cases m with
  | zero => simp [evaluated, Channel.setSample, Channel.setCache, Channel.setRng, forUpto_succ,
      sampleValue, rngBefore]
  | succ m => simp [evaluated, Channel.setSample, Channel.setRng, forUpto_succ]

/-- The loop of GEN_UPDATE, whatever the sizes. -/
theorem updateAll_eq_evaluated (points : Nat) :
    updateAll points ch t dt = evaluated ch t dt points :=
  calc updateAll points ch t dt = updateAll points (evaluated ch t dt 0) t dt := by
        rw [evaluated_zero]
    _ = evaluated ch t dt points :=
        forUpto_eq (evaluated ch t dt) fun _ hm => updatePoint_evaluated ch t dt hm

theorem evaluated_eq_generated {points : Nat} (hpos : 1 ≤ points) (hlen : ch.samples.length = points) :
    evaluated ch t dt points = generated points ch t dt := by
  rw [evaluated, generated, sampleRow, rngAfter, forUpto_set_const _ hlen, if_neg (by omega),
    min_eq_right hpos]

theorem evaluated_rng {points : Nat} (hpos : 1 ≤ points) :
    (evaluated ch t dt points).rng = rngAfter points ch.params ch.rng := by
  rw [evaluated, rngAfter, min_eq_right hpos]

end

/-! ### Draw accounting (40_waveform.md R104) -/

/-- Any shape but Noise leaves the random source alone. -/
theorem evalRng_of_not_noise {p : Params} (h : p.shape ≠ .noise) : evalRng p = id := by
  funext rng
  cases hs : p.shape with
  | noise => exact absurd hs h
  | sine | square | triangle | sawtooth | bounce => simp [evalRng, hs]

theorem caching_of_noise {p : Params} (h : p.shape = .noise) : caching p = true ↔ p.mode = .inPlace := by
  simp [caching, h]

/-- Settles O33: as many draws as evaluations, each of them one advance for Noise and none else. -/
theorem drawsAreCounted : Obligations.DrawsAreCounted := by
  intro points ch t dt hpos
  rw [updateAll_eq_evaluated, evaluated_rng ch t dt hpos, rngAfter, rngBefore]
  by_cases h : ch.params.shape = .noise
  · have hadvance : evalRng ch.params = fun r => Config.noisePrng.advance r ch.params.offset
        (fadd ch.params.offset ch.params.amplitude) := funext (evalRng_of_noise h)
    simp only [hadvance, h, if_true, caching_of_noise h]
  · rw [evalRng_of_not_noise h, Function.iterate_id, if_neg h]
    rfl

/-! ### The GEN_* commands on a channel of the build (40_waveform.md R97 to R100) -/

section
variable {s : State} {c : Nat} (hc : c < s.build.channels)
include hc

theorem exec_genUpdatePoint_of_lt (i : Nat) : exec (.genUpdatePoint c i) s = .next
    (((s.setNotfound false).setChan c
      (updatePoint s.build.points (s.chan c) s.argT s.argDt i)).setResult
        (updatePointValue s.build.points (s.chan c) s.argT s.argDt i)) :=
  congrArg Host.Outcome.next (onGenerator_of_lt hc _)

theorem exec_genUpdate_of_lt : exec (.genUpdate c) s = .next
    ((s.setNotfound false).setChan c (updateAll s.build.points (s.chan c) s.argT s.argDt)) :=
  congrArg Host.Outcome.next (onGenerator_of_lt hc _)

theorem exec_genReset_of_lt : exec (.genReset c) s = .next
    ((s.setNotfound false).setChan c (clearSamples s.build.points (s.chan c))) :=
  congrArg Host.Outcome.next (onGenerator_of_lt hc _)

theorem exec_genMask_of_lt (i : Nat) : exec (.genMask c i) s = .next
    ((s.setNotfound false).setChan c (toggleMask s.build.points (s.chan c) i)) :=
  congrArg Host.Outcome.next (onGenerator_of_lt hc _)

end

/-- Settles O35. -/
theorem genUpdateEvaluatesEverySample : Obligations.GenUpdateEvaluatesEverySample := by
  intro s c hinv hc
  obtain ⟨hsamples, -⟩ := hinv.chan_lengths hc
  rw [exec_genUpdate_of_lt hc, updateAll_eq_evaluated,
    evaluated_eq_generated _ _ _ hinv.points_pos hsamples]
  rfl

theorem updatePoint_of_ge {points i : Nat} (h : points ≤ i) (ch : Channel) (t dt : F32) :
    updatePoint points ch t dt i = ch ∧ updatePointValue points ch t dt i = posZero :=
  ⟨if_neg (by omega), if_neg (by omega)⟩

/-- An in-range evaluation past index 0 of a channel that caches copies the cache. -/
theorem updatePoint_of_caching {points i : Nat} (h : i < points) (hi : 0 < i) {ch : Channel}
    (hcaching : caching ch.params = true) (t dt : F32) :
    updatePoint points ch t dt i = { ch with samples := ch.samples.set i ch.cache } ∧
      updatePointValue points ch t dt i = ch.cache := by
  have hreads : readsCache ch.params i = true := by simp [readsCache, hi, hcaching]
  simp [updatePoint, updatePointValue, h, storePoint, pointValue, pointRng, hreads, hi.ne',
    Channel.setSample, Channel.setRng]

/-- Any other in-range evaluation calls the shape. -/
theorem updatePoint_of_evaluating {points i : Nat} (h : i < points) {ch : Channel}
    (hfresh : i = 0 ∨ caching ch.params = false) (t dt : F32) :
    updatePoint points ch t dt i =
        { ch with
          samples := ch.samples.set i (evalShape ch.params ch.rng t dt i)
          cache := if i = 0 then evalShape ch.params ch.rng t dt i else ch.cache
          rng := evalRng ch.params ch.rng } ∧
      updatePointValue points ch t dt i = evalShape ch.params ch.rng t dt i := by
  have hreads : readsCache ch.params i = false := by
    rcases hfresh with rfl | hc
    · rfl
    · simp [readsCache, hc]
  rw [updatePoint, updatePointValue, if_pos h, if_pos h, storePoint, pointValue, pointRng, hreads]
  refine ⟨?_, rfl⟩
  by_cases hi : i = 0 <;> simp [hi, Channel.setSample, Channel.setCache, Channel.setRng]

/-- Settles O34: the three cases of `update_point`. -/
theorem genUpdatePointEvaluatesOneSample : Obligations.GenUpdatePointEvaluatesOneSample := by
  intro s c i hinv hc
  rw [exec_genUpdatePoint_of_lt hc]
  refine ⟨fun hi => ?past, fun hi hpos hcaching => ?cached, fun hi hfresh => ?evaluated⟩
  case past =>
    obtain ⟨hchan, hvalue⟩ := updatePoint_of_ge hi (s.chan c) s.argT s.argDt
    rw [hchan, hvalue, ← chan_setNotfound s c false, setChan_chan_self]
    rfl
  case cached =>
    obtain ⟨hchan, hvalue⟩ := updatePoint_of_caching hi hpos hcaching s.argT s.argDt
    rw [hchan, hvalue]
    rfl
  case evaluated =>
    obtain ⟨hchan, hvalue⟩ := updatePoint_of_evaluating hi hfresh s.argT s.argDt
    rw [hchan, hvalue]
    rfl

/-- The channel after `m` rounds of GEN_RESET. -/
def cleared (ch : Channel) (m : Nat) : Channel :=
  { ch with
    samples := forUpto m (fun i l => l.set i posZero) ch.samples
    mask := forUpto m (fun i l => l.set i false) ch.mask }

theorem clearSamples_eq_cleared (points : Nat) (ch : Channel) : clearSamples points ch = cleared ch points :=
  forUpto_eq (cleared ch) fun m _ => by
    rw [cleared, cleared, forUpto_succ, forUpto_succ]
    rfl

/-- Settles O36. -/
theorem genResetZeroesSamplesAndMask : Obligations.GenResetZeroesSamplesAndMask := by
  intro s c hinv hc
  obtain ⟨hsamples, hmask, -⟩ := hinv.chan_lengths hc
  rw [exec_genReset_of_lt hc, clearSamples_eq_cleared, cleared,
    forUpto_set_replicate _ hsamples, forUpto_set_replicate _ hmask]
  rfl

/-- Toggling a flag twice restores it. -/
theorem toggleMask_toggleMask (points : Nat) (ch : Channel) (i : Nat) :
    toggleMask points (toggleMask points ch i) i = ch := by
  unfold toggleMask
  split_ifs
  · by_cases hi : i < ch.mask.length
    · simp [Channel.setMask, Channel.maskAt, hi]
    · simp [Channel.setMask, List.set_eq_of_length_le (Nat.le_of_not_lt hi)]
  · rfl

/-- Settles O37: one toggle, and a second one of the channel that the first put back. -/
theorem genMaskTogglesOneFlag : Obligations.GenMaskTogglesOneFlag := by
  intro s c i hinv hc
  have hlen : c < s.channels.length := by rw [hinv.channels_length]; exact hc
  rw [exec_genMask_of_lt hc]
  refine ⟨fun hi => ?toggled, fun hi => ?past, ?twice⟩
  case toggled =>
    rw [toggleMask, if_pos hi]
    rfl
  case past =>
    rw [toggleMask, if_neg (by omega), ← chan_setNotfound s c false, setChan_chan_self]
    rfl
  case twice =>
    have hagain := exec_genMask_of_lt
      (s := (s.setNotfound false).setChan c (toggleMask s.build.points (s.chan c) i)) hc i
    rw [andThen_next, hagain, chan_setChan, if_pos ⟨rfl, hlen⟩]
    simp only [State.setChan_build, State.setNotfound_build, toggleMask_toggleMask]
    have hset : ∀ x, (s.channels.set c x).set c (s.chan c) = s.channels := fun x => by
      rw [List.set_set, State.chan, set_getD_self]
    simp [State.setChan, State.setNotfound, hset]

/-! ### UPDATE (41_engine.md R109) -/

section
variable (ch : Channel)

/-- The channel after `m` rounds of UPDATE: those of an evaluation, each value stored in RAW as well. -/
def tickedPoints (m : Nat) : Channel :=
  { evaluated ch ch.time ch.step m with
    raw := forUpto m (fun i l => l.set i (sampleValue ch.params ch.rng ch.time ch.step i)) ch.raw }

theorem tickPoint_tickedPoints {points m : Nat} (hm : m < points) :
    tickPoint points ch.time ch.step m (tickedPoints ch m) = tickedPoints ch (m + 1) := by
  have hround : updatePoint points (tickedPoints ch m) ch.time ch.step m =
      { evaluated ch ch.time ch.step (m + 1) with raw := (tickedPoints ch m).raw } :=
    updatePoint_evaluated { ch with raw := (tickedPoints ch m).raw } ch.time ch.step hm
  have hvalue : pointValue (tickedPoints ch m) ch.time ch.step m =
      sampleValue ch.params ch.rng ch.time ch.step m :=
    pointValue_evaluated { ch with raw := (tickedPoints ch m).raw } ch.time ch.step m
  rw [tickPoint, updatePointValue, if_pos hm, hround, hvalue, tickedPoints, tickedPoints, forUpto_succ]
  rfl

theorem tickPoints_eq (points : Nat) : tickPoints points ch = tickedPoints ch points :=
  calc tickPoints points ch =
      forUpto points (tickPoint points ch.time ch.step) (tickedPoints ch 0) := by
        rw [tickedPoints, evaluated_zero]; rfl
    _ = tickedPoints ch points := forUpto_eq (tickedPoints ch) fun _ hm => tickPoint_tickedPoints ch hm

end

/-- One UPDATE of one channel. -/
theorem tickChannel_eq_ticked {points : Nat} {ch : Channel} (hpos : 1 ≤ points)
    (hsamples : ch.samples.length = points) (hraw : ch.raw.length = points) :
    tickChannel points ch = ticked points ch := by
  rw [tickChannel, tickPoints_eq, tickedPoints, evaluated_eq_generated _ _ _ hpos hsamples,
    forUpto_set_const _ hraw]
  cases h : ch.tadv <;> simp [advanceTime, ticked, generated, Channel.setTime, h, sampleRow]

/-- Settles O39: no round changes the build, so each channel is put back by the same function. -/
theorem updateEvaluatesEveryChannel : Obligations.UpdateEvaluatesEveryChannel := by
  intro s hinv
  obtain ⟨-, hlen, -, hch⟩ := (State.inv_iff s).1 hinv
  have hmap : s.channels.map (tickChannel s.build.points) = s.channels.map (ticked s.build.points) :=
    List.map_congr_left fun ch hmem => by
      obtain ⟨hsamples, -, hraw⟩ := hch ch hmem
      exact tickChannel_eq_ticked hinv.points_pos hsamples hraw
  rw [exec, execUpdate, forUpto_of_kept State.build
    (fun b j s => s.setChan j (tickChannel b.points (s.chan j))) (fun _ _ _ => rfl),
    forUpto_setChan _ s _ hlen, hmap]

end Sys2Proof.Machine

/-!
Proofs of the statements of 41_engine.md and 42_encoder.md: the packed buffer as a list rewritten word by
word, and the words of the encoders as their fields.
-/

namespace Sys2Proof.Machine

/-! ### The packed buffer, word by word (41_engine.md R111, R113, R115) -/

theorem State.Inv.mapped_length {s : State} (h : s.Inv) : s.mapped.length = s.build.points := by
  obtain ⟨-, -, hmapped, -⟩ := (State.inv_iff s).1 h
  exact hmapped

/-- The packed buffer rewritten, each word by its index and its old value. -/
def State.rewriteMapped (s : State) (G : Nat → Word → Word) : State :=
  { s with mapped := s.mapped.mapIdx G }

@[simp] theorem chan_rewriteMapped (s : State) (G : Nat → Word → Word) (j : Nat) :
    (s.rewriteMapped G).chan j = s.chan j := rfl

theorem rewriteMapped_rewriteMapped (s : State) (G H : Nat → Word → Word) :
    (s.rewriteMapped G).rewriteMapped H = s.rewriteMapped fun i m => H i (G i m) := by
  simp [State.rewriteMapped, Function.comp_def]

theorem mappedAt_rewriteMapped {s : State} {i : Nat} (hi : i < s.mapped.length)
    (G : Nat → Word → Word) : (s.rewriteMapped G).mappedAt i = G i (s.mappedAt i) := by
  simp [State.mappedAt, State.rewriteMapped, hi]

/-- MAP of channel `c` as a function of one word. -/
def mapWord (s : State) (c : Nat) (e : Encoder) (i : Nat) (m : Word) : Word :=
  if mapsChannel s c then m ||| encodeSample s e ((s.chan c).rawAt i) c else m

theorem mapWord_of_maps {s : State} {c : Nat} (h : mapsChannel s c = true) (e : Encoder) :
    mapWord s c e = fun i m => m ||| encodeSample s e ((s.chan c).rawAt i) c := by
  funext i m
  rw [mapWord, if_pos h]

theorem mapWord_of_not_maps {s : State} {c : Nat} (h : mapsChannel s c = false) (e : Encoder) :
    mapWord s c e = fun _ m => m := by
  funext i m
  rw [mapWord, h]
  rfl

theorem rewriteMapped_id (s : State) : s.rewriteMapped (fun _ m => m) = s := by
  have hid : s.mapped.mapIdx (fun _ m => m) = s.mapped := by
    apply List.ext_getElem <;> simp
  rw [State.rewriteMapped, hid]

section
variable {s : State} (hinv : s.Inv)
include hinv

theorem exec_clear : exec .clear s = .next (s.rewriteMapped fun _ _ => 0x00000000#32) :=
  congrArg Host.Outcome.next (forUpto_setMapped (fun _ _ => 0x00000000#32) s _ hinv.mapped_length)

theorem exec_finalize (d : ByteOrder) :
    exec (.finalize d) s = .next (s.rewriteMapped fun _ => finalizeWord d) :=
  congrArg Host.Outcome.next (forUpto_setMapped (fun _ => finalizeWord d) s _ hinv.mapped_length)

/-- The encoder reads nothing that a round of MAP writes. -/
theorem composeChannel_eq (c : Nat) (e : Encoder) : composeChannel c e s =
    s.rewriteMapped fun i m => m ||| encodeSample s e ((s.chan c).rawAt i) c := by
  have hkept := forUpto_of_kept (fun x : State => { x with mapped := [] })
    (fun r i x => x.setMapped i (x.mappedAt i ||| encodeSample r e ((r.chan c).rawAt i) c))
    (fun _ _ _ => rfl) s.build.points s
  exact hkept.trans (forUpto_setMapped
    (fun i m => m ||| encodeSample s e ((s.chan c).rawAt i) c) s _ hinv.mapped_length)

theorem exec_map (c : Nat) (e : Encoder) :
    exec (.map c e) s = .next (s.rewriteMapped (mapWord s c e)) := by
  rw [exec, execMap, composeChannel_eq hinv]
  cases h : mapsChannel s c with
  | true => rw [mapWord_of_maps h, if_pos rfl]
  | false => rw [mapWord_of_not_maps h, rewriteMapped_id]; rfl

/-- Rewriting the packed buffer keeps the sizes. -/
theorem State.Inv.rewriteMapped (G : Nat → Word → Word) : (s.rewriteMapped G).Inv :=
  hinv.of_layout_eq (by simp [State.layout, State.rewriteMapped])

end

/-- The rewritten buffer, from an index list. -/
theorem mapIdx_eq_range_map {s : State} (hinv : s.Inv) (G : Nat → Word → Word) :
    s.mapped.mapIdx G = (List.range s.build.points).map fun i => G i (s.mappedAt i) := by
  apply List.ext_getElem
  · simp [hinv.mapped_length]
  · intro i hi hi'
    have : i < s.mapped.length := by simpa using hi
    simp [State.mappedAt, this]

/-- Settles O41: MAP as a function of one word, with its condition true or false. -/
theorem mapComposesAnEnabledChannel : Obligations.MapComposesAnEnabledChannel := by
  intro s c e hinv
  refine ⟨fun hnone => ?_, fun hc hen => ?_⟩
  · have hmaps : mapsChannel s c = false := by
      rcases hnone with h | h <;> simp [mapsChannel, h]
    rw [exec_map hinv, mapWord_of_not_maps hmaps, rewriteMapped_id]
  · have hmaps : mapsChannel s c = true := by simp [mapsChannel, hc, hen]
    rw [exec_map hinv, mapWord_of_maps hmaps, State.rewriteMapped, mapIdx_eq_range_map hinv]
    cases e <;> rfl

/-- Settles O42. -/
theorem clearZeroesThePackedBuffer : Obligations.ClearZeroesThePackedBuffer := by
  intro s hinv
  rw [exec_clear hinv, State.rewriteMapped, mapIdx_eq_range_map hinv, List.map_const',
    List.length_range]

/-- Settles O45: each word is ORed with two values in either order, or twice with one. -/
theorem mapsCommute : Obligations.MapsCommute := by
  intro s a b e f hinv
  have hsecond : ∀ a b e f, andThen (exec (.map a e) s) (exec (.map b f)) =
      .next (s.rewriteMapped fun i m => mapWord s b f i (mapWord s a e i m)) := by
    intro a b e f
    rw [exec_map hinv, andThen_next, exec_map (hinv.rewriteMapped _), rewriteMapped_rewriteMapped]
    rfl
  refine ⟨?_, ?_⟩
  · rw [hsecond, hsecond]
    congr 2
    funext i m
    unfold mapWord
    split_ifs
    · rw [BitVec.or_assoc, BitVec.or_assoc, BitVec.or_comm (encodeSample _ _ _ a)]
    all_goals rfl
  · rw [hsecond, exec_map hinv]
    congr 2
    funext i m
    unfold mapWord
    split_ifs
    · rw [BitVec.or_assoc, BitVec.or_self]
    · rfl


/-! ### FINALIZE (41_engine.md R115, R116) -/

theorem rewriteMapped_const (s : State) (g : Word → Word) :
    s.rewriteMapped (fun _ => g) = { s with mapped := s.mapped.map g } := by
  have hmap : s.mapped.mapIdx (fun _ => g) = s.mapped.map g := by
    apply List.ext_getElem <;> simp
  rw [State.rewriteMapped, hmap]

theorem byteOf_append_eq_ite (a b c d : Byte) {k : Nat} (hk : k < 4) :
    byteOf (a ++ b ++ c ++ d) k = if k = 0 then d else if k = 1 then c else if k = 2 then b else a := by
  apply BitVec.eq_of_toNat_eq
  have := a.isLt
  have := b.isLt
  have := c.isLt
  have := d.isLt
  interval_cases k <;>
    simp only [byteOf, BitVec.extractLsb'_toNat, toNat_append_eq_add, Nat.shiftRight_eq_div_pow] <;>
    simp <;> omega

theorem byteOf_or (x y : Word) (k : Nat) : byteOf (x ||| y) k = byteOf x k ||| byteOf y k :=
  BitVec.extractLsb'_or

/-- The bytes of a swapped word. -/
theorem byteOf_bswap32 (w : Word) {k : Nat} (hk : k < 4) : byteOf (bswap32 w) k = byteOf w (3 - k) := by
  rw [bswap32, byteOf_append_eq_ite _ _ _ _ hk]
  interval_cases k <;> rfl

/-- Two words are equal when their bytes are. -/
theorem word_ext_bytes {v w : Word} (h : ∀ k, k < 4 → byteOf v k = byteOf w k) : v = w := by
  rw [← byteOf_append v, ← byteOf_append w, h 0 (by decide), h 1 (by decide), h 2 (by decide),
    h 3 (by decide)]

@[simp] theorem bswap32_bswap32 (w : Word) : bswap32 (bswap32 w) = w :=
  word_ext_bytes fun k hk => by
    rw [byteOf_bswap32 _ hk, byteOf_bswap32 _ (by omega), show 3 - (3 - k) = k by omega]

theorem bswap32_or (x y : Word) : bswap32 (x ||| y) = bswap32 x ||| bswap32 y :=
  word_ext_bytes fun k hk => by
    rw [byteOf_or, byteOf_bswap32 _ hk, byteOf_bswap32 _ hk, byteOf_bswap32 _ hk, byteOf_or]

/-- ORing in bits changes nothing exactly when they are 1 already. -/
theorem or_eq_self_iff {n : Nat} (x k : BitVec n) : x ||| k = x ↔ x &&& k = k := by
  simp only [BitVec.eq_of_getLsbD_eq_iff, BitVec.getLsbD_or, BitVec.getLsbD_and]
  refine forall₂_congr fun i _ => ?_
  cases x.getLsbD i <;> cases k.getLsbD i <;> decide

/-- The marker of FINALIZE, stamped before the swap, in bits 7..5 after it. -/
theorem bswap32_marker : bswap32 0xE0000000#32 = 0x000000E0#32 := by decide

theorem finalizeWord_little (m : Word) : finalizeWord .little m = m ||| 0xE0000000#32 := rfl

theorem finalizeWord_big (m : Word) : finalizeWord .big m = bswap32 m ||| 0x000000E0#32 := by
  rw [finalizeWord, bswap32_or, bswap32_marker]

/-- A stamped and swapped word, byte by byte. -/
theorem finalizeWord_big_bytes (m : Word) : finalizeWord .big m =
    m.extractLsb' 0 8 ++ m.extractLsb' 8 8 ++ m.extractLsb' 16 8 ++
      (m.extractLsb' 24 8 ||| 0xE0#8) := by
  have h0 : byteOf 0xE0000000#32 0 = 0#8 := by decide
  have h1 : byteOf 0xE0000000#32 1 = 0#8 := by decide
  have h2 : byteOf 0xE0000000#32 2 = 0#8 := by decide
  have h3 : byteOf 0xE0000000#32 3 = 0xE0#8 := by decide
  simp only [finalizeWord, bswap32, byteOf_or, h0, h1, h2, h3, BitVec.or_zero]
  rfl

/-- Settles O43. -/
theorem finalizeStampsAndOrders : Obligations.FinalizeStampsAndOrders := by
  intro s hinv
  rw [exec_finalize hinv, exec_finalize hinv, rewriteMapped_const, rewriteMapped_const]
  refine ⟨rfl, ?_⟩
  simp only [← finalizeWord_big_bytes]

/-- The marker of a word that was stamped and swapped is there exactly where its byte 0 had it. -/
theorem marker_iff (m : Word) (k : Word) (hk : k &&& 0x000000E0#32 = 0#32) :
    (m ||| k) &&& 0x000000E0#32 = 0x000000E0#32 ↔ m &&& 0x000000E0#32 = 0x000000E0#32 := by
  rw [BitVec.and_or_distrib_right, hk, BitVec.or_zero]

/-- FINALIZE after FINALIZE, as one rewriting of each word. -/
theorem exec_finalize_finalize {s : State} (hinv : s.Inv) (d d' : ByteOrder) :
    andThen (exec (.finalize d) s) (exec (.finalize d')) =
      .next { s with mapped := s.mapped.map fun m => finalizeWord d' (finalizeWord d m) } := by
  rw [exec_finalize hinv, andThen_next, exec_finalize (hinv.rewriteMapped _),
    rewriteMapped_rewriteMapped, rewriteMapped_const]

/-- Two rewritings of the packed buffer are equal when they agree on its words. -/
theorem next_mapped_eq_iff (s : State) (f g : Word → Word) :
    (Host.Outcome.next (φ := Fault) (ρ := Refusal) { s with mapped := s.mapped.map f } =
      .next { s with mapped := s.mapped.map g }) ↔ ∀ m ∈ s.mapped, f m = g m := by
  rw [← List.map_inj_left]
  constructor
  · intro h
    exact congrArg State.mapped (Host.Outcome.next.inj h)
  · intro h
    rw [h]

theorem finalizeWord_big_big (m : Word) :
    finalizeWord .big (finalizeWord .big m) = m ||| 0xE00000E0#32 := by
  rw [finalizeWord_big, finalizeWord_big, bswap32_or, bswap32_bswap32,
    show bswap32 0x000000E0#32 = 0xE0000000#32 by decide, BitVec.or_assoc,
    show 0xE0000000#32 ||| 0x000000E0#32 = 0xE00000E0#32 by decide]

/-- A second stamp on a word that is stamped and not swapped changes nothing. -/
theorem finalizeWord_after_little (d : ByteOrder) (m : Word) :
    finalizeWord d (finalizeWord .little m) = finalizeWord d m := by
  have h : m ||| 0xE0000000#32 ||| 0xE0000000#32 = m ||| 0xE0000000#32 := by
    rw [BitVec.or_assoc, BitVec.or_self]
  cases d <;> simp only [finalizeWord, h]

theorem finalizeWord_big_big_eq_little_iff (m : Word) :
    finalizeWord .big (finalizeWord .big m) = finalizeWord .little m ↔
      m &&& 0xE0#32 = 0xE0#32 := by
  have h : m ||| 0xE00000E0#32 = m ||| 0xE0000000#32 ||| 0x000000E0#32 := by
    rw [BitVec.or_assoc]
    rfl
  rw [finalizeWord_big_big, finalizeWord_little, h, or_eq_self_iff, marker_iff m _ (by decide)]

theorem finalizeWord_big_little_eq_big_iff (m : Word) :
    finalizeWord .little (finalizeWord .big m) = finalizeWord .big m ↔ m &&& 0xE0#32 = 0xE0#32 := by
  have hswap : bswap32 (finalizeWord .big m) = finalizeWord .little m := bswap32_bswap32 _
  rw [← finalizeWord_big_big_eq_little_iff, ← hswap, finalizeWord_little]
  exact (Function.LeftInverse.injective bswap32_bswap32).eq_iff.symm

/-- Settles O44: each outcome is a rewriting of the packed buffer, and two of them are compared word by
word. -/
theorem finalizeTwiceLeavesTheClosedForms : Obligations.FinalizeTwiceLeavesTheClosedForms := by
  intro s hinv
  have hone : ∀ d, exec (.finalize d) s = .next { s with mapped := s.mapped.map (finalizeWord d) } :=
    fun d => by rw [exec_finalize hinv, rewriteMapped_const]
  simp only [exec_finalize_finalize hinv]
  simp only [hone, next_mapped_eq_iff]
  exact ⟨fun m _ => finalizeWord_big_big m, fun _ _ => rfl,
    fun m _ => finalizeWord_after_little .big m, fun m _ => finalizeWord_after_little .little m,
    forall₂_congr fun m _ => finalizeWord_big_big_eq_little_iff m,
    forall₂_congr fun m _ => finalizeWord_big_little_eq_big_iff m⟩

/-! ### The words of the encoders (42_encoder.md R127 to R130) -/

/-- A byte shifted to place `j` of a word is byte `j` of it, and the others are 0. -/
theorem byteOf_shifted (x : Byte) {j k : Nat} (hj : j < 4) (hk : k < 4) :
    byteOf (x.setWidth 32 <<< (8 * j)) k = if k = j then x else 0#8 := by
  have hx := x.isLt
  apply BitVec.eq_of_toNat_eq
  simp only [byteOf, BitVec.extractLsb'_toNat, BitVec.toNat_shiftLeft, BitVec.toNat_setWidth,
    Nat.shiftRight_eq_div_pow, Nat.shiftLeft_eq]
  interval_cases j <;> interval_cases k <;> simp <;> omega

/-- The byte of the marker and the brightness. -/
theorem marker_brightness (br : Byte) : 0xE0#8 ||| (br &&& 0x1F#8) = 0x7#3 ++ br.setWidth 5 := by
  revert br
  decide

/-- An LED word is the marker, the low five bits of the brightness byte, and the three colours. -/
theorem fmtLed_eq_append (r g bl br : Byte) :
    fmtLed r g bl br = 0x7#3 ++ br.setWidth 5 ++ bl ++ g ++ r := by
  have hm : ∀ k, k < 4 → byteOf 0xE0000000#32 k = if k = 3 then 0xE0#8 else 0#8 := by decide
  have hr : ∀ k, k < 4 → byteOf (r.setWidth 32) k = if k = 0 then r else 0#8 := fun k hk => by
    have := byteOf_shifted r (j := 0) (by decide) hk
    simpa using this
  refine word_ext_bytes fun k hk => ?_
  rw [← marker_brightness, byteOf_append_eq_ite _ _ _ _ hk, fmtLed]
  simp only [byteOf_or, hm k hk, hr k hk,
    byteOf_shifted (br &&& 0x1F#8) (j := 3) (by decide) hk,
    byteOf_shifted bl (j := 2) (by decide) hk, byteOf_shifted g (j := 1) (by decide) hk]
  interval_cases k <;> simp

/-- The byte-lane code: one byte of a word, and none from lane 4 on. -/
theorem byteOf_laneCode (b : Build) (v : F32) (c : Nat) {k : Nat} (hk : k < 4) :
    byteOf (laneCode b v c) k = if k = c then q8 b v else 0#8 := by
  rw [laneCode]
  split_ifs with hc h h
  · rw [byteOf_shifted _ hc hk, if_pos h]
  · rw [byteOf_shifted _ hc hk, if_neg h]
  · omega
  · exact BitVec.extractLsb'_zero

/-- The full-LED word: the marker and the brightness register, and one colour below channel 3. -/
theorem byteOf_encLed (s : State) (v : F32) (c : Nat) {k : Nat} (hk : k < 4) :
    byteOf (encLed s v c) k = if k = 3 then 0x7#3 ++ s.ledBrightness
      else if k = c then q8 s.build v else 0#8 := by
  have hled : (s.ledBrightness.setWidth 8).setWidth 5 = s.ledBrightness := by simp
  match c with
  | 0 | 1 | 2 =>
    rw [encLed, fmtLed_eq_append, byteOf_append_eq_ite _ _ _ _ hk, hled]
    interval_cases k <;> rfl
  | c + 3 =>
    have hblank : encLed s v (c + 3) = fmtLed 0#8 0#8 0#8 (s.ledBrightness.setWidth 8) := rfl
    rw [hblank, fmtLed_eq_append, byteOf_append_eq_ite _ _ _ _ hk, hled]
    interval_cases k <;> simp

/-- Settles O47. -/
theorem quantizeWritesTheLaneCode : Obligations.QuantizeWritesTheLaneCode := by
  intro s c
  exact ⟨laneCode s.build s.argValue c, rfl, fun hc => if_neg (by omega),
    fun _ _ hk => byteOf_laneCode s.build s.argValue c hk⟩

/-- An LED word as a number. -/
theorem fmtLed_toNat (r g bl br : Byte) : (fmtLed r g bl br).toNat =
    ((((7 * 2 ^ 5 + br.toNat % 2 ^ 5) * 2 ^ 8 + bl.toNat) * 2 ^ 8 + g.toNat) * 2 ^ 8 + r.toNat) := by
  rw [fmtLed_eq_append]
  simp only [toNat_append_eq_add, BitVec.toNat_setWidth]
  rfl

/-- Settles O48: the fields of the word and those of `G.ARG_RGBB`, as numbers. -/
theorem formatLedWritesTheLedWord : Obligations.FormatLedWritesTheLedWord := by
  intro s
  refine ⟨fmtLed (rgbbRed s.argRgbb) (rgbbGreen s.argRgbb) (rgbbBlue s.argRgbb)
    (rgbbBrightness s.argRgbb), rfl, ?_, ?_, ?_, ?_, ?_⟩ <;>
  · apply BitVec.eq_of_toNat_eq
    simp only [BitVec.extractLsb'_toNat, fmtLed_toNat, rgbbRed, rgbbGreen, rgbbBlue, rgbbBrightness,
      byteOf, Nat.shiftRight_eq_div_pow, BitVec.toNat_ofNat]
    omega

/-- Settles O49: both sides byte by byte. -/
theorem encodersComposeOneLedWord : Obligations.EncodersComposeOneLedWord := by
  intro s v0 v1 v2
  refine ⟨word_ext_bytes fun k hk => ?led, word_ext_bytes fun k hk => ?lane,
    fun v c hc => word_ext_bytes fun k hk => ?rest⟩
  case led =>
    rw [byteOf_append_eq_ite _ _ _ _ hk]
    simp only [byteOf_or, byteOf_encLed s _ _ hk]
    interval_cases k <;> simp
  case lane =>
    rw [byteOf_append_eq_ite _ _ _ _ hk]
    simp only [byteOf_or, encLane, byteOf_laneCode s.build _ _ hk]
    interval_cases k <;> simp
  case rest =>
    have hsplit : 0x7#3 ++ s.ledBrightness ++ 0x000000#24 =
        0x7#3 ++ s.ledBrightness ++ 0#8 ++ 0#8 ++ 0#8 := by
      apply BitVec.eq_of_toNat_eq
      simp only [toNat_append_eq_add]
      simp
      omega
    rw [hsplit, byteOf_append_eq_ite _ _ _ _ hk, byteOf_encLed s _ _ hk]
    interval_cases k <;> simp <;> omega

/-! ### The wire format (41_engine.md section 3) -/

/-- A command the host issues runs at once, with the last answer cleared. -/
theorem transact_command {i : Instr} (hi : i.WellFormed) (s : State) :
    transact (statementEvent (.command i)) s = exec i { s with reply := none } :=
  runCommand_ok _ (decodeOfEncodeIsTheCommand i hi)

/-- A command that rewrites the packed buffer, at the head of a host program. -/
theorem runActions_rewriting {i : Instr} (hi : i.WellFormed) {s : State} (hreply : s.reply = none)
    {G : Nat → Word → Word} (h : exec i s = .next (s.rewriteMapped G)) (rest : List HostAction) :
    runActions (doCommand i :: rest) s = runActions rest (s.rewriteMapped G) := by
  have hs : { s with reply := none } = s := by rw [← hreply]
  rw [runActions, doCommand, runAction, transact_command hi, hs, h, andThen_next]

/-- The word of a pixel after FINALIZE BIG, in the order of the wire. -/
theorem byteOf_finalizeWord_big (m : Word) {k : Nat} (hk : k < 4) :
    byteOf (finalizeWord .big m) k = byteOf m (3 - k) ||| byteOf 0xE0000000#32 (3 - k) := by
  rw [finalizeWord, byteOf_bswap32 _ hk, byteOf_or]

/-- The marker is already in the word of an encoder. -/
theorem marker_or (b : BitVec 5) : (0x7#3 ++ b) ||| 0xE0#8 = 0x7#3 ++ b := by
  revert b
  decide

/-- One pixel of the frame: CLEAR, three MAPs and FINALIZE BIG on one word. -/
def pixelWord (s : State) (i : Nat) : Word :=
  finalizeWord .big
    (mapWord s 2 .led i (mapWord s 1 .led i (mapWord s 0 .led i 0x00000000#32)))

/-- The program of the wire format rewrites the packed buffer. -/
theorem runActions_frame {s : State} (hinv : s.Inv) :
    runActions [doCommand .clear, doCommand (.map 0 .led), doCommand (.map 1 .led),
        doCommand (.map 2 .led), doCommand (.finalize .big)] s =
      .next (State.rewriteMapped { s with reply := none } fun i _ => pixelWord s i) := by
  have hfirst : runActions [doCommand .clear, doCommand (.map 0 .led), doCommand (.map 1 .led),
      doCommand (.map 2 .led), doCommand (.finalize .big)] s = runActions [doCommand .clear,
      doCommand (.map 0 .led), doCommand (.map 1 .led), doCommand (.map 2 .led),
      doCommand (.finalize .big)] { s with reply := none } := rfl
  have hinv' : State.Inv { s with reply := none } := hinv
  rw [hfirst, runActions_rewriting rfl rfl (exec_clear hinv'),
    runActions_rewriting rfl rfl (exec_map (hinv'.rewriteMapped _) _ _),
    rewriteMapped_rewriteMapped,
    runActions_rewriting rfl rfl (exec_map (hinv'.rewriteMapped _) _ _),
    rewriteMapped_rewriteMapped,
    runActions_rewriting rfl rfl (exec_map (hinv'.rewriteMapped _) _ _),
    rewriteMapped_rewriteMapped,
    runActions_rewriting rfl rfl (exec_finalize (hinv'.rewriteMapped _) _),
    rewriteMapped_rewriteMapped]
  rfl

/-- The bytes of a pixel whose three channels are enabled. -/
theorem byteOf_pixelWord {s : State} (h0 : mapsChannel s 0 = true) (h1 : mapsChannel s 1 = true)
    (h2 : mapsChannel s 2 = true) (i : Nat) :
    byteOf (pixelWord s i) 0 = 0x7#3 ++ s.ledBrightness ∧
      byteOf (pixelWord s i) 1 = q8 s.build ((s.chan 2).rawAt i) ∧
      byteOf (pixelWord s i) 2 = q8 s.build ((s.chan 1).rawAt i) ∧
      byteOf (pixelWord s i) 3 = q8 s.build ((s.chan 0).rawAt i) := by
  have hm : ∀ k, k < 4 → byteOf 0xE0000000#32 k = if k = 3 then 0xE0#8 else 0#8 := by decide
  have hbyte : ∀ k, k < 4 → byteOf (pixelWord s i) k =
      byteOf (encLed s ((s.chan 0).rawAt i) 0) (3 - k) |||
        byteOf (encLed s ((s.chan 1).rawAt i) 1) (3 - k) |||
          byteOf (encLed s ((s.chan 2).rawAt i) 2) (3 - k) ||| byteOf 0xE0000000#32 (3 - k) := by
    intro k hk
    have hfirst : mapWord s 0 .led i 0x00000000#32 = encLed s ((s.chan 0).rawAt i) 0 := by
      rw [mapWord_of_maps h0]
      exact BitVec.zero_or
    rw [pixelWord, byteOf_finalizeWord_big _ hk, hfirst, mapWord_of_maps h1, mapWord_of_maps h2,
      byteOf_or, byteOf_or]
    rfl
  refine ⟨?_, ?_, ?_, ?_⟩ <;>
  · rw [hbyte _ (by decide), hm _ (by decide), byteOf_encLed _ _ _ (by decide),
      byteOf_encLed _ _ _ (by decide), byteOf_encLed _ _ _ (by decide)]
    simp [marker_or]

/-- Settles O50: the program rewrites each word to its pixel, whose bytes are the frame's. -/
theorem frameCarriesTheWireFormat : Obligations.FrameCarriesTheWireFormat := by
  intro s hinv hchannels h0 h1 h2
  refine ⟨_, runActions_frame hinv, fun i hi => ?_⟩
  have hmaps : ∀ c, c < 3 → (s.chan c).en = true → mapsChannel s c = true := fun c hc hen => by
    simp [mapsChannel, hen, show c < s.build.channels by omega]
  have hword : (State.rewriteMapped { s with reply := none } fun i _ => pixelWord s i).mappedAt i =
      pixelWord s i := mappedAt_rewriteMapped (by rw [← hinv.mapped_length] at hi; exact hi) _
  have hbyte : ∀ k, k < 4 → frameByte
      (State.rewriteMapped { s with reply := none } fun i _ => pixelWord s i) (4 * i + k) =
        byteOf (pixelWord s i) k := fun k hk => by rw [frameByte_of_word _ i hk, hword]
  obtain ⟨hmarker, hblue, hgreen, hred⟩ := byteOf_pixelWord (hmaps 0 (by decide) h0)
    (hmaps 1 (by decide) h1) (hmaps 2 (by decide) h2) i
  exact ⟨(hbyte 0 (by decide)).trans hmarker, (hbyte 1 (by decide)).trans hblue,
    (hbyte 2 (by decide)).trans hgreen, (hbyte 3 (by decide)).trans hred⟩

end Sys2Proof.Machine

/-!
Proofs of the statements about what no command reads: a function respects what `g` forgets when it leads
two values that `g` makes equal to values that `g` makes equal. Loops and compositions keep this, so it
has to be seen only of one round on one channel.
-/

namespace Sys2Proof.Machine

/-! ### Functions that read nothing that is forgotten -/

/-- `F` reads nothing that `g` forgets, but to keep it. -/
def Respects {α : Type} (g F : α → α) : Prop := ∀ x y, g x = g y → g (F x) = g (F y)

/-- It is enough to forget before and after. -/
theorem respects_of_forget {α : Type} {g F : α → α} (h : ∀ x, g (F (g x)) = g (F x)) :
    Respects g F := fun x y hxy => by rw [← h x, ← h y, hxy]

theorem Respects.comp {α : Type} {g F G : α → α} (hG : Respects g G) (hF : Respects g F) :
    Respects g (fun x => G (F x)) := fun x y h => hG _ _ (hF x y h)

theorem Respects.forUpto {α : Type} {g : α → α} {body : Nat → α → α}
    (round : ∀ i, Respects g (body i)) (n : Nat) : Respects g (forUpto n body) := by
  intro x y h
  induction n with
  | zero => exact h
  | succ n ih => rw [forUpto_succ, forUpto_succ]; exact round n _ _ ih

/-- A command that respects what is forgotten is blind to it. -/
theorem blind_of_respects {forget : State → State} {i : Instr} {F : State → State}
    (hexec : ∀ s, exec i s = .next (F s)) (hF : Respects forget F) : Blind forget i :=
  fun s1 s2 h => ⟨F s1, F s2, hexec s1, hexec s2, hF s1 s2 h⟩

section
variable {forget : State → State} (hbuild : ∀ s, (forget s).build = s.build)
include hbuild

theorem build_eq_of_forget_eq {x y : State} (h : forget x = forget y) : x.build = y.build := by
  rw [← hbuild x, h, hbuild]

/-- A loop over as many rounds as the build says. -/
theorem Respects.loop {body : Nat → State → State} (round : ∀ i, Respects forget (body i))
    (size : Build → Nat) : Respects forget fun s => Machine.forUpto (size s.build) body s := by
  intro x y h
  simp only [build_eq_of_forget_eq hbuild h]
  exact Respects.forUpto round _ x y h

theorem Respects.generator {body : State → State}
    (hflag : ∀ b, Respects forget (·.setNotfound b)) (hbody : Respects forget body) (c : Nat) :
    Respects forget fun s => onGenerator s c body := by
  intro x y h
  simp only [onGenerator, markFound, build_eq_of_forget_eq hbuild h]
  have hfound := hflag (decide (y.build.channels ≤ c)) x y h
  split_ifs
  · exact hfound
  · exact hbody _ _ hfound

end

/-! ### The flags (10_state.md R48) -/

/-- No command reads a flag; a GEN_* command writes NOTFOUND whatever it was. -/
theorem blind_forgetFlags (i : Instr) : Blind forgetFlags i := by
  have hbuild : ∀ s, (forgetFlags s).build = s.build := fun _ => rfl
  have loop : ∀ (size : Build → Nat) (body : Nat → State → State),
      (∀ i s, forgetFlags (body i (forgetFlags s)) = forgetFlags (body i s)) →
      Respects forgetFlags fun s => forUpto (size s.build) body s := fun size body hround =>
    Respects.loop hbuild (fun i => respects_of_forget (hround i)) size
  have generator : ∀ (c : Nat) (body : State → State),
      (∀ s, forgetFlags (body (forgetFlags s)) = forgetFlags (body s)) →
      Respects forgetFlags fun s => onGenerator s c body := fun c body hbody =>
    Respects.generator hbuild (fun _ => respects_of_forget fun _ => rfl) (respects_of_forget hbody) c
  cases i with
  | update | treset => exact blind_of_respects (fun _ => rfl) (loop Build.channels _ fun _ _ => rfl)
  | clear | finalize => exact blind_of_respects (fun _ => rfl) (loop Build.points _ fun _ _ => rfl)
  | map c e =>
    refine blind_of_respects (fun _ => rfl) fun x y h => ?_
    have hmaps : mapsChannel (forgetFlags x) c = mapsChannel (forgetFlags y) c := by rw [h]
    change mapsChannel x c = mapsChannel y c at hmaps
    rw [hmaps]
    split_ifs
    · exact loop Build.points _ (fun _ _ => rfl) x y h
    · exact h
  | genUpdatePoint c | genUpdate c | genReset c | genMask c =>
    exact blind_of_respects (fun _ => rfl) (generator c _ fun _ => rfl)
  | quantize | formatLed => exact blind_of_respects (fun _ => rfl) (respects_of_forget fun _ => rfl)

/-- A GEN_* command writes NOTFOUND and leaves BADCMD. -/
theorem onGenerator_flags {body : State → State} (hbad : ∀ s, (body s).badcmd = s.badcmd)
    (hfound : ∀ s, (body s).notfound = s.notfound) (s : State) (c : Nat) :
    (onGenerator s c body).badcmd = s.badcmd ∧
      (onGenerator s c body).notfound = decide (s.build.channels ≤ c) := by
  rcases onGenerator_cases s c body with ⟨hc, h⟩ | ⟨hc, h⟩
  · simp [h, hc]
  · simp [h, hbad, hfound, hc]

/-- Settles O51: no other command writes a flag. -/
theorem flagsAreReadByNoCommand : Obligations.FlagsAreReadByNoCommand := by
  refine ⟨blind_forgetFlags, fun i s => ?_⟩
  cases i with
  | update | treset | clear | finalize =>
    exact ⟨_, rfl, forUpto_keeps State.badcmd (fun _ _ => by rfl) s,
      forUpto_keeps State.notfound (fun _ _ => by rfl) s⟩
  | map c e =>
    refine ⟨_, rfl, ?_⟩
    split_ifs
    · exact ⟨forUpto_keeps State.badcmd (fun _ _ => by rfl) s,
        forUpto_keeps State.notfound (fun _ _ => by rfl) s⟩
    · exact ⟨rfl, rfl⟩
  | genUpdatePoint c | genUpdate c | genReset c | genMask c =>
    exact ⟨_, rfl, onGenerator_flags (fun _ => by rfl) (fun _ => by rfl) s c⟩
  | quantize | formatLed => exact ⟨_, rfl, rfl, rfl⟩

/-! ### A part of every channel (10_state.md R51, 40_waveform.md section 2, 41_engine.md section 3) -/

/-- `g` forgets a part of a channel that no evaluation and no clock reads; every write can go before it
or after it. -/
structure Forgets (g : Channel → Channel) : Prop where
  absent : g Channel.absent = Channel.absent
  time : ∀ ch, (g ch).time = ch.time
  step : ∀ ch, (g ch).step = ch.step
  tadv : ∀ ch, (g ch).tadv = ch.tadv
  value : ∀ ch t dt i, pointValue (g ch) t dt i = pointValue ch t dt i
  rng : ∀ ch i, pointRng (g ch) i = pointRng ch i
  setRng : ∀ r, Respects g (·.setRng r)
  setCache : ∀ v, Respects g (·.setCache v)
  setTime : ∀ v, Respects g (·.setTime v)
  setSample : ∀ i v, Respects g (·.setSample i v)
  setRaw : ∀ i v, Respects g (·.setRaw i v)
  setMask : ∀ i b, Respects g (·.setMask i b)
  toggle : ∀ i, Respects g fun ch => ch.setMask i (!ch.maskAt i)

def Channel.forgetPdt (ch : Channel) : Channel := { ch with params := { ch.params with pdt := posZero } }

def Channel.forgetMask (ch : Channel) : Channel := { ch with mask := [] }

def Channel.forgetEnable (ch : Channel) : Channel := { ch with en := false }

theorem forgets_pdt : Forgets Channel.forgetPdt :=
  ⟨rfl, fun _ => rfl, fun _ => rfl, fun _ => rfl, fun _ _ _ _ => rfl, fun _ _ => rfl,
    fun _ => respects_of_forget fun _ => rfl, fun _ => respects_of_forget fun _ => rfl,
    fun _ => respects_of_forget fun _ => rfl, fun _ _ => respects_of_forget fun _ => rfl,
    fun _ _ => respects_of_forget fun _ => rfl, fun _ _ => respects_of_forget fun _ => rfl,
    fun _ => respects_of_forget fun _ => rfl⟩

/-- A toggle reads a flag, and writes it alone. -/
theorem forgets_mask : Forgets Channel.forgetMask :=
  ⟨rfl, fun _ => rfl, fun _ => rfl, fun _ => rfl, fun _ _ _ _ => rfl, fun _ _ => rfl,
    fun _ => respects_of_forget fun _ => rfl, fun _ => respects_of_forget fun _ => rfl,
    fun _ => respects_of_forget fun _ => rfl, fun _ _ => respects_of_forget fun _ => rfl,
    fun _ _ => respects_of_forget fun _ => rfl, fun _ _ => respects_of_forget fun _ => rfl,
    fun _ => respects_of_forget fun _ => rfl⟩

theorem forgets_enable : Forgets Channel.forgetEnable :=
  ⟨rfl, fun _ => rfl, fun _ => rfl, fun _ => rfl, fun _ _ _ _ => rfl, fun _ _ => rfl,
    fun _ => respects_of_forget fun _ => rfl, fun _ => respects_of_forget fun _ => rfl,
    fun _ => respects_of_forget fun _ => rfl, fun _ _ => respects_of_forget fun _ => rfl,
    fun _ _ => respects_of_forget fun _ => rfl, fun _ _ => respects_of_forget fun _ => rfl,
    fun _ => respects_of_forget fun _ => rfl⟩

section
variable {g : Channel → Channel} (hg : Forgets g)
include hg

/-! What a reading does not see of a channel, it does not see of a whole evaluation. -/

theorem Forgets.storePoint (i : Nat) (v : F32) : Respects g fun ch => Machine.storePoint ch i v := by
  intro x y h
  have hrng : pointRng x i = pointRng y i := by rw [← hg.rng x, h, hg.rng]
  unfold Machine.storePoint
  refine hg.setSample i v _ _ ?_
  have hset : g (x.setRng (pointRng x i)) = g (y.setRng (pointRng y i)) := by
    rw [hrng]
    exact hg.setRng _ x y h
  split_ifs
  · exact hg.setCache v _ _ hset
  · exact hset

theorem Forgets.pointValue_eq {x y : Channel} (h : g x = g y) (t dt : F32) (i : Nat) :
    pointValue x t dt i = pointValue y t dt i := by
  rw [← hg.value x, h, hg.value]

theorem Forgets.updatePointValue_eq {x y : Channel} (h : g x = g y) (points : Nat) (t dt : F32)
    (i : Nat) : updatePointValue points x t dt i = updatePointValue points y t dt i := by
  rw [updatePointValue, updatePointValue, hg.pointValue_eq h]

theorem Forgets.updatePoint (points : Nat) (t dt : F32) (i : Nat) :
    Respects g fun ch => Machine.updatePoint points ch t dt i := by
  intro x y h
  simp only [Machine.updatePoint, hg.pointValue_eq h]
  split_ifs
  · exact hg.storePoint i _ x y h
  · exact h

theorem Forgets.updateAll (points : Nat) (t dt : F32) :
    Respects g fun ch => Machine.updateAll points ch t dt :=
  Respects.forUpto (hg.updatePoint points t dt) points

theorem Forgets.clearSamples (points : Nat) : Respects g (Machine.clearSamples points) :=
  Respects.forUpto (fun i => (hg.setMask i false).comp (hg.setSample i posZero)) points

theorem Forgets.toggleMask (points i : Nat) : Respects g fun ch => Machine.toggleMask points ch i := by
  intro x y h
  unfold Machine.toggleMask
  split_ifs
  · exact hg.toggle i x y h
  · exact h

theorem Forgets.tickPoint (points : Nat) (t dt : F32) (i : Nat) :
    Respects g (Machine.tickPoint points t dt i) := by
  intro x y h
  rw [Machine.tickPoint, Machine.tickPoint, hg.updatePointValue_eq h]
  exact hg.setRaw i _ _ _ (hg.updatePoint points t dt i x y h)

theorem Forgets.advanceTime : Respects g Machine.advanceTime := by
  intro x y h
  have htime : x.time = y.time := by rw [← hg.time x, h, hg.time]
  have hstep : x.step = y.step := by rw [← hg.step x, h, hg.step]
  have htadv : x.tadv = y.tadv := by rw [← hg.tadv x, h, hg.tadv]
  rw [Machine.advanceTime, Machine.advanceTime, htime, hstep, htadv]
  split_ifs
  · exact hg.setTime _ x y h
  · exact h

theorem Forgets.tickChannel (points : Nat) : Respects g (Machine.tickChannel points) := by
  intro x y h
  have htime : x.time = y.time := by rw [← hg.time x, h, hg.time]
  have hstep : x.step = y.step := by rw [← hg.step x, h, hg.step]
  refine hg.advanceTime _ _ ?_
  rw [tickPoints, tickPoints, htime, hstep]
  exact Respects.forUpto (hg.tickPoint points y.time y.step) points x y h

end

/-! ### The same part of every channel, forgotten in the state -/

/-- The state with a part of every channel forgotten. -/
def forgetChannels (g : Channel → Channel) (s : State) : State := { s with channels := s.channels.map g }

section
variable {g : Channel → Channel} (hg : Forgets g)
include hg

theorem chan_forgetChannels (s : State) (j : Nat) : (forgetChannels g s).chan j = g (s.chan j) := by
  rw [State.chan, State.chan, forgetChannels, List.getD_eq_getElem?_getD, List.getElem?_map,
    List.getD_eq_getElem?_getD]
  cases s.channels[j]? with
  | none => exact hg.absent.symm
  | some ch => rfl

theorem chan_eq_of_forget_eq {x y : State} (h : forgetChannels g x = forgetChannels g y) (j : Nat) :
    g (x.chan j) = g (y.chan j) := by
  rw [← chan_forgetChannels hg, h, chan_forgetChannels hg]

omit hg in
theorem forgetChannels_setChan (s : State) (j : Nat) (ch : Channel) :
    forgetChannels g (s.setChan j ch) = (forgetChannels g s).setChan j (g ch) := by
  simp [forgetChannels, State.setChan, List.map_set]

/-- Putting back a channel that `F` computes from the old one and from parts `r` of the state that are
not forgotten. -/
theorem respects_setChan {β : Type} (r : State → β) (hr : ∀ s, r (forgetChannels g s) = r s)
    {F : β → Channel → Channel} (hF : ∀ b, Respects g (F b)) (j : Nat) :
    Respects (forgetChannels g) fun s => s.setChan j (F (r s) (s.chan j)) := by
  intro x y h
  have hrest : r x = r y := by rw [← hr x, h, hr]
  simp only [forgetChannels_setChan, h, hrest, hF _ _ _ (chan_eq_of_forget_eq hg h j)]

/-- A command that does not read what is forgotten, MAP aside. -/
theorem blind_of_forgets (i : Instr) (hmap : ∀ c e, i ≠ .map c e) : Blind (forgetChannels g) i := by
  have hbuild : ∀ s, (forgetChannels g s).build = s.build := fun _ => rfl
  have hflag : ∀ b, Respects (forgetChannels g) (·.setNotfound b) := fun b x y h =>
    congrArg (·.setNotfound b) h
  cases i with
  | map c e => exact absurd rfl (hmap c e)
  | update =>
    exact blind_of_respects (fun _ => rfl) (Respects.loop hbuild
      (respects_setChan hg State.build hbuild fun b => hg.tickChannel b.points) Build.channels)
  | treset =>
    exact blind_of_respects (fun _ => rfl) (Respects.loop hbuild
      (respects_setChan hg State.build hbuild (F := fun _ => (·.setTime posZero))
        fun _ => hg.setTime posZero) Build.channels)
  | clear =>
    exact blind_of_respects (fun _ => rfl) (Respects.loop hbuild
      (fun i x y h => congrArg (·.setMapped i 0x00000000#32) h) Build.points)
  | finalize d =>
    exact blind_of_respects (fun _ => rfl) (Respects.loop hbuild
      (fun i x y h => congrArg (fun s => s.setMapped i (finalizeWord d (s.mappedAt i))) h) Build.points)
  | genUpdatePoint c i =>
    refine blind_of_respects (fun _ => rfl) (Respects.generator hbuild hflag (fun x y h => ?_) c)
    have hchan := respects_setChan hg (fun s => (s.build, s.argT, s.argDt)) (fun _ => rfl)
      (F := fun r ch => updatePoint r.1.points ch r.2.1 r.2.2 i) (fun _ => hg.updatePoint _ _ _ _) c x y h
    have hbuild : x.build = y.build := build_eq_of_forget_eq hbuild h
    have hargT : (forgetChannels g x).argT = (forgetChannels g y).argT := by rw [h]
    have hargDt : (forgetChannels g x).argDt = (forgetChannels g y).argDt := by rw [h]
    have hvalue : updatePointValue x.build.points (x.chan c) x.argT x.argDt i =
        updatePointValue y.build.points (y.chan c) y.argT y.argDt i := by
      rw [hg.updatePointValue_eq (chan_eq_of_forget_eq hg h c), hbuild,
        show x.argT = y.argT from hargT, show x.argDt = y.argDt from hargDt]
    rw [hvalue]
    exact congrArg (·.setResult (updatePointValue y.build.points (y.chan c) y.argT y.argDt i)) hchan
  | genUpdate c =>
    exact blind_of_respects (fun _ => rfl) (Respects.generator hbuild hflag
      ((respects_setChan hg (fun s => (s.build, s.argT, s.argDt)) (fun _ => rfl)
        (F := fun r ch => updateAll r.1.points ch r.2.1 r.2.2) fun _ => hg.updateAll _ _ _) c) c)
  | genReset c =>
    exact blind_of_respects (fun _ => rfl) (Respects.generator hbuild hflag
      ((respects_setChan hg State.build hbuild fun b => hg.clearSamples b.points) c) c)
  | genMask c x =>
    exact blind_of_respects (fun _ => rfl) (Respects.generator hbuild hflag
      ((respects_setChan hg State.build hbuild (F := fun b ch => toggleMask b.points ch x)
        fun b => hg.toggleMask b.points x) c) c)
  | quantize c =>
    exact blind_of_respects (fun _ => rfl) fun x y h =>
      congrArg (fun s => s.setResult (laneCode s.build s.argValue c)) h
  | formatLed =>
    exact blind_of_respects (fun _ => rfl) fun x y h =>
      congrArg (fun s => s.setResult (fmtLed (rgbbRed s.argRgbb) (rgbbGreen s.argRgbb)
        (rgbbBlue s.argRgbb) (rgbbBrightness s.argRgbb))) h

/-- MAP reads EN and RAW, and of the globals nothing that is forgotten. -/
theorem blind_map_of_forgets (hen : ∀ ch, (g ch).en = ch.en) (hraw : ∀ ch, (g ch).raw = ch.raw)
    (c : Nat) (e : Encoder) : Blind (forgetChannels g) (.map c e) := by
  have hbuild : ∀ s, (forgetChannels g s).build = s.build := fun _ => rfl
  have round : ∀ i, Respects (forgetChannels g) fun s =>
      s.setMapped i (s.mappedAt i ||| encodeSample s e ((s.chan c).rawAt i) c) := by
    intro i x y h
    have hvalue : (x.chan c).rawAt i = (y.chan c).rawAt i := by
      rw [Channel.rawAt, ← hraw, chan_eq_of_forget_eq hg h, hraw, Channel.rawAt]
    have hmapped : (forgetChannels g x).mappedAt i = (forgetChannels g y).mappedAt i := by rw [h]
    have hencode : ∀ v, encodeSample (forgetChannels g x) e v c =
        encodeSample (forgetChannels g y) e v c := by rw [h]; exact fun _ => rfl
    have hword : x.mappedAt i ||| encodeSample x e ((x.chan c).rawAt i) c =
        y.mappedAt i ||| encodeSample y e ((y.chan c).rawAt i) c := by
      rw [hvalue]
      exact congrArg₂ (· ||| ·) hmapped (hencode _)
    exact congrArg₂ (·.setMapped i ·) h hword
  refine blind_of_respects (fun _ => rfl) fun x y h => ?_
  have hmaps : mapsChannel x c = mapsChannel y c := by
    rw [mapsChannel, mapsChannel, ← hen (x.chan c), chan_eq_of_forget_eq hg h, hen,
      build_eq_of_forget_eq hbuild h]
  rw [hmaps]
  split_ifs
  · exact Respects.loop hbuild round Build.points x y h
  · exact h

/-- Where EN and RAW are kept too, every command is blind. -/
theorem blind_of_forgets_all (hen : ∀ ch, (g ch).en = ch.en) (hraw : ∀ ch, (g ch).raw = ch.raw)
    (i : Instr) : Blind (forgetChannels g) i := by
  by_cases h : ∃ c e, i = .map c e
  · obtain ⟨c, e, rfl⟩ := h
    exact blind_map_of_forgets hg hen hraw c e
  · exact blind_of_forgets hg i fun c e hi => h ⟨c, e, hi⟩

end

/-- Settles O52. -/
theorem pdtIsReadByNoCommand : Obligations.PdtIsReadByNoCommand :=
  blind_of_forgets_all forgets_pdt (fun _ => rfl) (fun _ => rfl)

/-- Settles O53. -/
theorem exclusionMaskIsInert : Obligations.ExclusionMaskIsInert :=
  blind_of_forgets_all forgets_mask (fun _ => rfl) (fun _ => rfl)

/-- Settles O54. -/
theorem enableIsReadByMapAlone : Obligations.EnableIsReadByMapAlone :=
  blind_of_forgets forgets_enable

/-! ### What a generator command leaves alone (10_state.md section 6) -/

/-- What the generator of a channel never writes: what the host and the engine own. -/
def Channel.owned (ch : Channel) : Params × Bool × Bool × F32 × F32 × List F32 :=
  (ch.params, ch.en, ch.tadv, ch.step, ch.time, ch.raw)

theorem updatePoint_owned (points : Nat) (t dt : F32) (i : Nat) (ch : Channel) :
    (updatePoint points ch t dt i).owned = ch.owned := by
  unfold updatePoint storePoint
  split_ifs <;> rfl

theorem updateAll_owned (points : Nat) (ch : Channel) (t dt : F32) :
    (updateAll points ch t dt).owned = ch.owned :=
  forUpto_keeps Channel.owned (updatePoint_owned points t dt) ch

theorem clearSamples_owned (points : Nat) (ch : Channel) : (clearSamples points ch).owned = ch.owned :=
  forUpto_keeps Channel.owned (fun _ _ => by rfl) ch

theorem toggleMask_owned (points : Nat) (ch : Channel) (i : Nat) :
    (toggleMask points ch i).owned = ch.owned := by
  unfold toggleMask
  split_ifs <;> rfl

/-- The next state `t` of a command of generator `c` on `s`. -/
def KeepsToGenerator (c : Nat) (s t : State) : Prop :=
  (∀ j, j ≠ c → t.chan j = s.chan j) ∧
    t = { s with notfound := t.notfound, result := t.result, channels := t.channels } ∧
    (t.chan c).owned = (s.chan c).owned

/-- A command that puts back its channel with what is owned unchanged, and may write RESULT. -/
theorem keepsToGenerator_onGenerator {c : Nat} {body : State → State}
    (hbody : ∀ s, ∃ ch r, body s = (s.setChan c ch).setResult r ∧ ch.owned = (s.chan c).owned)
    (s : State) : KeepsToGenerator c s (onGenerator s c body) := by
  rcases onGenerator_cases s c body with ⟨-, h⟩ | ⟨-, h⟩
  · rw [h]
    exact ⟨fun _ _ => rfl, rfl, rfl⟩
  · obtain ⟨ch, r, hb, howned⟩ := hbody (s.setNotfound false)
    rw [h, hb]
    refine ⟨fun j hj => ?_, rfl, ?_⟩
    · rw [chan_setResult, chan_setChan, if_neg fun hjc => hj hjc.1.symm, chan_setNotfound]
    · rw [chan_setResult, chan_setChan]
      split_ifs
      · exact howned
      · rfl

/-- Settles O55. -/
theorem generatorCommandsKeepToTheirGenerator : Obligations.GeneratorCommandsKeepToTheirGenerator := by
  intro s c i x hx
  have hkeeps : ∃ t, exec x s = .next t ∧ KeepsToGenerator c s t := by
    simp only [List.mem_cons, List.not_mem_nil, or_false] at hx
    rcases hx with rfl | rfl | rfl | rfl
    · exact ⟨_, rfl, keepsToGenerator_onGenerator
        (fun s => ⟨_, _, rfl, updatePoint_owned _ _ _ _ _⟩) s⟩
    · exact ⟨_, rfl, keepsToGenerator_onGenerator
        (fun s => ⟨_, s.result, rfl, updateAll_owned _ _ _ _⟩) s⟩
    · exact ⟨_, rfl, keepsToGenerator_onGenerator
        (fun s => ⟨_, s.result, rfl, clearSamples_owned _ _⟩) s⟩
    · exact ⟨_, rfl, keepsToGenerator_onGenerator
        (fun s => ⟨_, s.result, rfl, toggleMask_owned _ _ _⟩) s⟩
  obtain ⟨t, hexec, hother, hframe, howned⟩ := hkeeps
  simp only [Channel.owned, Prod.mk.injEq] at howned
  exact ⟨t, hexec, hother, hframe, howned⟩

end Sys2Proof.Machine

/-!
Proofs of the statements about binary32 arithmetic: which magnitudes a pattern holds, that rounding
leaves these alone and finds the nearest of them elsewhere, and what follows for the primitives.
-/

namespace Sys2Proof.Machine

/-! ### The magnitudes that a finite pattern holds (00_scope.md R7) -/

/-- A magnitude has at most 24 significant bits, above a power of two that its exponent field gives. -/
theorem unitsOfMag_eq_mul_pow (m : Nat) :
    ∃ k, k < 2 ^ 24 ∧ unitsOfMag m = k * 2 ^ (m / 2 ^ 23 - 1) := by
  have hfraction : m % 2 ^ 23 < 2 ^ 23 := Nat.mod_lt _ (by norm_num)
  unfold unitsOfMag
  split_ifs with h
  · exact ⟨m % 2 ^ 23, by omega, by rw [h]; simp⟩
  · exact ⟨2 ^ 23 + m % 2 ^ 23, by omega, rfl⟩

/-- The pattern with spacing `2^e` and significand `k`: with a hidden bit, or subnormal. -/
theorem unitsOfMag_add {e k : Nat} (hk : k ≤ 2 ^ 24) (hlarge : e = 0 ∨ 2 ^ 23 ≤ k) :
    unitsOfMag (e * 2 ^ 23 + k) = k * 2 ^ e := by
  unfold unitsOfMag
  rcases lt_or_ge k (2 ^ 23) with hsmall | hge
  · obtain rfl : e = 0 := by omega
    rw [if_pos (by omega), show (0 * 2 ^ 23 + k) % 2 ^ 23 = k by omega]
    simp
  · rcases hk.lt_or_eq with hlt | rfl
    · rw [if_neg (by omega), show (e * 2 ^ 23 + k) / 2 ^ 23 - 1 = e by omega,
        show 2 ^ 23 + (e * 2 ^ 23 + k) % 2 ^ 23 = k by omega]
    · rw [if_neg (by omega), show (e * 2 ^ 23 + 2 ^ 24) / 2 ^ 23 - 1 = e + 1 by omega,
        show 2 ^ 23 + (e * 2 ^ 23 + 2 ^ 24) % 2 ^ 23 = 2 ^ 23 by omega]
      ring

/-- Some finite pattern has this magnitude. -/
def Representable (n : Nat) : Prop := ∃ m, m < 0x7F800000 ∧ unitsOfMag m = n

theorem representable_magUnits {a : F32} (h : isFinite a = true) : Representable (magUnits a) := by
  rw [isFinite, decide_eq_true_eq] at h
  exact ⟨magBits a, h, rfl⟩

/-- Every number of at most 24 significant bits in range is representable. -/
theorem representable_mul_pow {k t : Nat} (hk : k < 2 ^ 24) (ht : t ≤ 253) :
    Representable (k * 2 ^ t) := by
  induction t generalizing k with
  | zero => exact ⟨k, by omega, by simpa using unitsOfMag_add (e := 0) hk.le (.inl rfl)⟩
  | succ t ih =>
    rcases lt_or_ge k (2 ^ 23) with hsmall | hlarge
    · have h := ih (k := 2 * k) (by omega) (by omega)
      rwa [show 2 * k * 2 ^ t = k * 2 ^ (t + 1) by ring] at h
    · exact ⟨(t + 1) * 2 ^ 23 + k, by omega, unitsOfMag_add hk.le (.inr hlarge)⟩

/-! ### Rounding to nearest (00_scope.md R7) -/

/-- `roundHalfEven` leaves at most half a divisor. -/
theorem roundHalfEven_error (n d : Nat) (hd : 0 < d) :
    2 * |(n : ℤ) - d * roundHalfEven n d| ≤ d := by
  have hdiv := Nat.div_add_mod n d
  have hmod := Nat.mod_lt n hd
  have hdiv' : (n : ℤ) = d * (n / d : ℕ) + (n % d : ℕ) := by exact_mod_cast hdiv.symm
  unfold roundHalfEven
  dsimp only
  split_ifs with h
  · have hrest : (n : ℤ) - d * ((n / d + 1 : ℕ) : ℤ) = (n % d : ℕ) - d := by
      rw [hdiv']; push_cast; ring
    rw [hrest, abs_of_nonpos (by omega)]
    omega
  · have hrest : (n : ℤ) - d * ((n / d : ℕ) : ℤ) = (n % d : ℕ) := by
      rw [hdiv']; push_cast; ring
    rw [hrest, abs_of_nonneg (by omega)]
    omega

/-- No integer is nearer to `n / d`. -/
theorem roundHalfEven_nearest (n d : Nat) (hd : 0 < d) (j : ℤ) :
    |(n : ℤ) - d * roundHalfEven n d| ≤ |(n : ℤ) - d * j| := by
  have herror := roundHalfEven_error n d hd
  set k : ℤ := (roundHalfEven n d : ℤ)
  rcases eq_or_ne k j with rfl | hne
  · exact le_rfl
  · have hgap : (d : ℤ) ≤ |d * k - d * j| := by
      rw [← mul_sub, abs_mul, Nat.abs_cast]
      exact le_mul_of_one_le_right (by omega) (Int.one_le_abs (sub_ne_zero.2 hne))
    have htriangle := abs_sub_le ((d : ℤ) * k) n (d * j)
    rw [abs_sub_comm ((d : ℤ) * k) n] at htriangle
    linarith

/-- The exponent of the spacing that `roundMag` rounds `n / d` at. -/
def spacing (n d : Nat) : Nat := Nat.log2 (n / d) - 23

/-- The significand that `roundMag` rounds `n / d` to. -/
def significand (n d : Nat) : Nat := roundHalfEven n (d * 2 ^ spacing n d)

section
variable {n d : Nat} (hd : 0 < d)
include hd

theorem significand_le : significand n d ≤ 2 ^ 24 := by
  have hlt : n / d < 2 ^ (24 + spacing n d) :=
    Nat.lt_log2_self.trans_le (Nat.pow_le_pow_right (by norm_num) (by unfold spacing; omega))
  have hle : n ≤ 2 ^ 24 * (d * 2 ^ spacing n d) := by
    have := ((Nat.div_lt_iff_lt_mul hd).1 hlt).le
    rw [pow_add] at this
    linarith
  rw [significand, ← roundHalfEven_exact (2 ^ 24) 1 one_pos]
  exact roundHalfEven_mono (by positivity) one_pos (by simpa using hle)

/-- Above the subnormals `n / d` has a hidden bit at its spacing. -/
theorem hidden_bit_le (h : spacing n d ≠ 0) : 2 ^ 23 * (d * 2 ^ spacing n d) ≤ n := by
  unfold spacing at *
  have hne : n / d ≠ 0 := by
    intro h0
    simp [h0] at h
  have hge : 2 ^ (23 + (Nat.log2 (n / d) - 23)) ≤ n / d := by
    rw [show 23 + (Nat.log2 (n / d) - 23) = Nat.log2 (n / d) by omega]
    exact Nat.log2_self_le hne
  have := (Nat.le_div_iff_mul_le hd).1 hge
  rw [pow_add] at this
  linarith

theorem le_significand (h : spacing n d ≠ 0) : 2 ^ 23 ≤ significand n d := by
  rw [significand, ← roundHalfEven_exact (2 ^ 23) 1 one_pos]
  exact roundHalfEven_mono one_pos (by positivity) (by simpa using hidden_bit_le hd h)

/-- What `roundMag` rounds to, in range: the significand at its spacing. -/
theorem unitsOfMag_roundMag_eq (h : roundMag n d < 0x7F800000) :
    unitsOfMag (roundMag n d) = significand n d * 2 ^ spacing n d := by
  have hround : roundMag n d = min (spacing n d * 2 ^ 23 + significand n d) 0x7F800000 := rfl
  have heq : roundMag n d = spacing n d * 2 ^ 23 + significand n d := by omega
  rw [heq]
  refine unitsOfMag_add (significand_le hd) ?_
  by_cases h0 : spacing n d = 0
  · exact .inl h0
  · exact .inr (le_significand hd h0)

omit hd in
/-- A number of units that is no multiple of the spacing of `n / d` is below the hidden bit. -/
theorem multiple_or_lt (m : Nat) : (∃ j, unitsOfMag m = j * 2 ^ spacing n d) ∨
    unitsOfMag m < 2 ^ 23 * 2 ^ spacing n d ∧ spacing n d ≠ 0 := by
  obtain ⟨k, hk, hm⟩ := unitsOfMag_eq_mul_pow m
  set t := m / 2 ^ 23 - 1
  rw [hm]
  rcases le_or_gt (spacing n d) t with hle | hlt
  · refine .inl ⟨k * 2 ^ (t - spacing n d), ?_⟩
    rw [mul_assoc, ← pow_add, Nat.sub_add_cancel hle]
  · refine .inr ⟨?_, by omega⟩
    calc k * 2 ^ t < 2 ^ 24 * 2 ^ t := Nat.mul_lt_mul_of_pos_right hk (by positivity)
      _ = 2 ^ 23 * 2 ^ (t + 1) := by ring
      _ ≤ 2 ^ 23 * 2 ^ spacing n d := Nat.mul_le_mul_left _ (Nat.pow_le_pow_right (by norm_num) hlt)

/-- No finite magnitude is nearer to `n / d` than the one that it rounds to. -/
theorem roundMag_nearest (h : roundMag n d < 0x7F800000) (m : Nat) :
    |(n : ℤ) - d * unitsOfMag (roundMag n d)| ≤ |(n : ℤ) - d * unitsOfMag m| := by
  have hnearest := roundHalfEven_nearest n (d * 2 ^ spacing n d) (by positivity)
  rw [← significand] at hnearest
  have hresult : (n : ℤ) - d * unitsOfMag (roundMag n d) =
      n - (d * 2 ^ spacing n d : ℕ) * significand n d := by
    rw [unitsOfMag_roundMag_eq hd h]
    push_cast
    ring
  rw [hresult]
  rcases multiple_or_lt (n := n) (d := d) m with ⟨j, hj⟩ | ⟨hlt, hspacing⟩
  · refine (hnearest j).trans_eq ?_
    rw [hj]
    push_cast
    ring_nf
  · refine (hnearest (2 ^ 23)).trans ?_
    have hhidden := hidden_bit_le hd hspacing
    have hbelow : d * unitsOfMag m ≤ d * (2 ^ 23 * 2 ^ spacing n d) := Nat.mul_le_mul_left d hlt.le
    have hhidden' : ((d * 2 ^ spacing n d : ℕ) : ℤ) * 2 ^ 23 ≤ n := by
      exact_mod_cast (by linarith : d * 2 ^ spacing n d * 2 ^ 23 ≤ n)
    have hbelow' : (d : ℤ) * unitsOfMag m ≤ ((d * 2 ^ spacing n d : ℕ) : ℤ) * 2 ^ 23 := by
      exact_mod_cast (by linarith : d * unitsOfMag m ≤ d * 2 ^ spacing n d * 2 ^ 23)
    rw [abs_of_nonneg (by linarith), abs_of_nonneg (by linarith)]
    linarith

end

/-- A representable magnitude rounds to itself. -/
theorem roundMag_of_representable {n : Nat} (h : Representable n) :
    roundMag n 1 < 0x7F800000 ∧ unitsOfMag (roundMag n 1) = n := by
  obtain ⟨m, hm, rfl⟩ := h
  have hmax : roundMag (unitsOfMag 0x7F7FFFFF) 1 = 0x7F7FFFFF := by decide
  have hle : roundMag (unitsOfMag m) 1 ≤ roundMag (unitsOfMag 0x7F7FFFFF) 1 :=
    roundMag_mono one_pos one_pos
      (Nat.mul_le_mul_right 1 (unitsOfMag_strictMono.monotone (by omega)))
  have hfin : roundMag (unitsOfMag m) 1 < 0x7F800000 := by omega
  have hnearest := roundMag_nearest one_pos hfin m
  simp only [Nat.cast_one, one_mul, sub_self, abs_zero, abs_nonpos_iff, sub_eq_zero] at hnearest
  exact ⟨hfin, by exact_mod_cast hnearest.symm⟩

/-! ### Rounded values (00_scope.md R7) -/

@[simp] theorem magBits_roundUnits (s : Bool) (n d : Nat) :
    magBits (roundUnits s n d) = roundMag n d := magBits_packF32 s _ (roundMag_lt n d)

@[simp] theorem signOf_roundUnits (s : Bool) (n d : Nat) : signOf (roundUnits s n d) = s :=
  signOf_packF32 s _ (roundMag_lt n d)

theorem isFinite_roundUnits_iff (s : Bool) (n d : Nat) :
    isFinite (roundUnits s n d) = true ↔ roundMag n d < 0x7F800000 := by
  rw [isFinite, decide_eq_true_eq, magBits_roundUnits]

/-- `-1` or `1`. -/
def signUnit (s : Bool) : ℤ := if s then -1 else 1

theorem abs_signUnit_mul (s : Bool) (z : ℤ) : |signUnit s * z| = |z| := by
  cases s <;> simp [signUnit]

theorem units_eq_signUnit_mul (a : F32) : units a = signUnit (signOf a) * magUnits a := by
  rw [units, signUnit]
  split_ifs <;> ring

theorem units_roundUnits (s : Bool) (n d : Nat) :
    units (roundUnits s n d) = signUnit s * unitsOfMag (roundMag n d) := by
  rw [units_eq_signUnit_mul, signOf_roundUnits, magUnits, magBits_roundUnits]

/-- A representable magnitude is rounded to itself, with the sign asked for. -/
theorem roundUnits_of_representable {n : Nat} (h : Representable n) (s : Bool) :
    isFinite (roundUnits s n 1) = true ∧ units (roundUnits s n 1) = signUnit s * n := by
  obtain ⟨hfin, hunits⟩ := roundMag_of_representable h
  exact ⟨(isFinite_roundUnits_iff s n 1).2 hfin, by rw [units_roundUnits, hunits]⟩

/-- No finite binary32 is nearer to `x` than `r`. -/
def IsNearest (x : ℚ) (r : F32) : Prop :=
  ∀ c, isFinite c = true → |x - ratValue r| ≤ |x - ratValue c|

section
variable {s : Bool} {n d : Nat} (hd : 0 < d) (hfin : isFinite (roundUnits s n d) = true)
include hd hfin

/-- In units: a value of the other sign is no nearer than zero is. -/
theorem units_roundUnits_nearest (c : F32) :
    |signUnit s * n - d * units (roundUnits s n d)| ≤ |signUnit s * n - d * units c| := by
  rw [isFinite_roundUnits_iff] at hfin
  have hnearest := roundMag_nearest hd hfin
  have hresult : |signUnit s * n - d * units (roundUnits s n d)| =
      |(n : ℤ) - d * unitsOfMag (roundMag n d)| := by
    rw [← abs_signUnit_mul s (n - _), units_roundUnits]
    congr 1
    ring
  rw [hresult]
  rcases eq_or_ne (signOf c) s with hs | hs
  · refine (hnearest (magBits c)).trans_eq ?_
    rw [← abs_signUnit_mul s (n - _), units_eq_signUnit_mul c, hs, magUnits]
    congr 1
    ring
  · have hzero := hnearest 0
    have hother : signUnit s * n - d * units c = signUnit s * (n + d * magUnits c) := by
      have hsign : signUnit (signOf c) = -signUnit s := by
        cases s <;> cases h : signOf c <;> simp_all [signUnit]
      rw [units_eq_signUnit_mul, hsign]
      ring
    have hpos : (0 : ℤ) ≤ d * magUnits c := by positivity
    have habs : |(n : ℤ) - d * unitsOfMag 0| = n := by simp [unitsOfMag]
    rw [hother, abs_signUnit_mul, abs_of_nonneg (a := (n : ℤ) + _) (by positivity)]
    linarith

theorem roundUnits_isNearest {x : ℚ} (hx : x = signUnit s * n / d / 2 ^ 149) :
    IsNearest x (roundUnits s n d) := by
  intro c _
  have hd' : (0 : ℚ) < d := by exact_mod_cast hd
  have hscaled : ∀ r : F32, |x - ratValue r| =
      ((|signUnit s * n - d * units r| : ℤ) : ℚ) / (d * 2 ^ 149) := by
    intro r
    have : x - ratValue r = ((signUnit s * n - d * units r : ℤ) : ℚ) / (d * 2 ^ 149) := by
      rw [hx, ratValue]
      push_cast
      field_simp
    rw [this, abs_div, abs_of_pos (by positivity : (0 : ℚ) < d * 2 ^ 149)]
    push_cast
    rfl
  rw [hscaled, hscaled]
  exact div_le_div_of_nonneg_right (by exact_mod_cast units_roundUnits_nearest hd hfin c)
    (by positivity)

end

/-! ### Addition, multiplication and division (00_scope.md section 3) -/

theorem fadd_of_isFinite {a b : F32} (ha : isFinite a = true) (hb : isFinite b = true) :
    fadd a b = if units a + units b = 0 then packF32 (signOf a && signOf b) 0
      else roundUnits (decide (units a + units b < 0)) (units a + units b).natAbs 1 := by
  simp [fadd, not_isNaN_of_isFinite ha, not_isNaN_of_isFinite hb, isInf_of_isFinite ha,
    isInf_of_isFinite hb]

theorem isZero_packF32_zero (s : Bool) : isZero (packF32 s 0) = true := by
  rw [isZero, magBits_packF32 s 0 (by norm_num)]
  rfl

theorem signUnit_mul_natAbs (z : ℤ) : signUnit (decide (z < 0)) * z.natAbs = z := by
  rcases lt_or_ge z 0 with h | h <;> simp [signUnit, h, abs_of_neg, abs_of_nonneg, not_lt.2]

theorem fadd_isNearest {a b : F32} (ha : isFinite a = true) (hb : isFinite b = true)
    (hfin : isFinite (fadd a b) = true) : IsNearest (ratValue a + ratValue b) (fadd a b) := by
  have hsum : ratValue a + ratValue b = ((units a + units b : ℤ) : ℚ) / 2 ^ 149 := by
    rw [ratValue, ratValue]
    push_cast
    ring
  rw [fadd_of_isFinite ha hb] at hfin ⊢
  split_ifs at hfin ⊢ with hz
  · intro c _
    rw [hsum, hz, (ratValue_eq_zero_iff _).2 (isZero_packF32_zero _)]
    simp
  · refine roundUnits_isNearest one_pos hfin ?_
    have habs := congrArg (Int.cast : ℤ → ℚ) (signUnit_mul_natAbs (units a + units b))
    rw [Int.cast_mul, Int.cast_natCast] at habs
    rw [hsum, Nat.cast_one, div_one, habs]

theorem signUnit_bne (s t : Bool) : signUnit (s != t) = signUnit s * signUnit t := by
  cases s <;> cases t <;> rfl

theorem fmul_isNearest {a b : F32} (ha : isFinite a = true) (hb : isFinite b = true)
    (hfin : isFinite (fmul a b) = true) : IsNearest (ratValue a * ratValue b) (fmul a b) := by
  rw [fmul_of_isFinite ha hb] at hfin ⊢
  refine roundUnits_isNearest (by positivity) hfin ?_
  rw [ratValue, ratValue, units_eq_signUnit_mul a, units_eq_signUnit_mul b, signUnit_bne]
  push_cast
  ring

theorem magUnits_pos_of_not_isZero {b : F32} (h : isZero b = false) : 0 < magUnits b := by
  rw [isZero, beq_eq_false_iff_ne] at h
  exact unitsOfMag_strictMono (Nat.pos_of_ne_zero h)

theorem fdiv_isNearest {a b : F32} (ha : isFinite a = true) (hb : isFinite b = true)
    (hz : isZero b = false) (hfin : isFinite (fdiv a b) = true) :
    IsNearest (ratValue a / ratValue b) (fdiv a b) := by
  have hdiv : fdiv a b = roundUnits (signOf a != signOf b) (magUnits a * 2 ^ 149) (magUnits b) := by
    simp [fdiv, not_isNaN_of_isFinite ha, not_isNaN_of_isFinite hb, isInf_of_isFinite ha,
      isInf_of_isFinite hb, hz]
  have hpos := magUnits_pos_of_not_isZero hz
  rw [hdiv] at hfin ⊢
  refine roundUnits_isNearest hpos hfin ?_
  have hne : (magUnits b : ℚ) ≠ 0 := by exact_mod_cast hpos.ne'
  have hsign : (signUnit (signOf b) : ℚ) ≠ 0 := by
    unfold signUnit
    split_ifs <;> norm_num
  have hsquare : (signUnit (signOf b) : ℚ) * signUnit (signOf b) = 1 := by
    unfold signUnit
    split_ifs <;> norm_num
  rw [ratValue, ratValue, units_eq_signUnit_mul a, units_eq_signUnit_mul b, signUnit_bne]
  push_cast
  field_simp
  linear_combination -(2 ^ 149 * signUnit (signOf a) * magUnits a : ℚ) * hsquare

/-- Settles O58: each primitive rounds its exact result once. -/
theorem arithmeticRoundsToNearest : Obligations.ArithmeticRoundsToNearest := by
  intro a b c ha hb hc
  exact ⟨fun hfin => fadd_isNearest ha hb hfin c hc, fun hfin => fmul_isNearest ha hb hfin c hc,
    fun hz hfin => fdiv_isNearest ha hb hz hfin c hc⟩

/-! ### ffmod and ffloor (00_scope.md section 4) -/

/-- A remainder of two representable magnitudes is representable: it is a multiple of the finer of their
two spacings, and below the significand there. -/
theorem Representable.mod {n d : Nat} (hn : Representable n) (hd : Representable d) (hpos : 0 < d) :
    Representable (n % d) := by
  obtain ⟨p, hp, rfl⟩ := hn
  obtain ⟨q, hq, rfl⟩ := hd
  obtain ⟨j, hj, hpj⟩ := unitsOfMag_eq_mul_pow p
  obtain ⟨k, hk, hqk⟩ := unitsOfMag_eq_mul_pow q
  set t := p / 2 ^ 23 - 1 with ht
  set u := q / 2 ^ 23 - 1 with hu
  rw [hqk] at hpos
  rw [hpj, hqk]
  rcases le_total t u with hle | hle
  · have hfine : k * 2 ^ u = k * 2 ^ (u - t) * 2 ^ t := by
      rw [mul_assoc, ← pow_add, Nat.sub_add_cancel hle]
    rw [hfine, Nat.mul_mod_mul_right]
    exact representable_mul_pow ((Nat.mod_le _ _).trans_lt hj) (by omega)
  · have hfine : j * 2 ^ t = j * 2 ^ (t - u) * 2 ^ u := by
      rw [mul_assoc, ← pow_add, Nat.sub_add_cancel hle]
    have hk0 : 0 < k := Nat.pos_of_mul_pos_right hpos
    rw [hfine, Nat.mul_mod_mul_right]
    exact representable_mul_pow ((Nat.mod_lt _ hk0).trans hk) (by omega)

/-- The remainder of truncated division, by sign and magnitude. -/
theorem units_tmod (a b : F32) :
    (units a).tmod (units b) = signUnit (signOf a) * (magUnits a % magUnits b : ℕ) := by
  rw [units_eq_signUnit_mul, units_eq_signUnit_mul, signUnit, signUnit]
  split_ifs <;> simp [Int.tmod_eq_emod_of_nonneg]

/-- Settles O59: the remainder of the magnitudes is representable, so it is not rounded. -/
theorem fmodIsExact : Obligations.FmodIsExact := by
  intro a b ha hb hz
  have hexact := (representable_magUnits ha).mod (representable_magUnits hb)
    (magUnits_pos_of_not_isZero hz)
  have hmod : ffmod a b = roundUnits (signOf a) (magUnits a % magUnits b) 1 := by
    simp [ffmod, not_isNaN_of_isFinite ha, not_isNaN_of_isFinite hb, isInf_of_isFinite ha,
      isInf_of_isFinite hb, hz]
  obtain ⟨hfin, hunits⟩ := roundUnits_of_representable hexact (signOf a)
  rw [hmod]
  exact ⟨hfin, hunits.trans (units_tmod a b).symm, signOf_roundUnits _ _ _⟩

theorem natAbs_units (a : F32) : (units a).natAbs = magUnits a := by
  rw [units]
  split_ifs <;> simp

/-- The floor of a value in units of 1 is representable: a value with a fraction is below `2^23`, and a
value without one is its own floor. -/
theorem representable_floor {a : F32} (ha : isFinite a = true) :
    Representable ((units a / 2 ^ 149).natAbs * 2 ^ 149) := by
  obtain ⟨k, hk, hmag⟩ := unitsOfMag_eq_mul_pow (magBits a)
  have ht : magBits a / 2 ^ 23 - 1 ≤ 253 := by
    rw [isFinite, decide_eq_true_eq] at ha
    omega
  set t := magBits a / 2 ^ 23 - 1
  rcases le_or_gt 149 t with hle | hlt
  · have hwhole : ((2 ^ 149 : ℕ) : ℤ) ∣ units a := by
      rw [Int.natCast_dvd, natAbs_units, magUnits, hmag]
      exact (pow_dvd_pow 2 hle).mul_left k
    have hself : (units a / 2 ^ 149).natAbs * 2 ^ 149 = k * 2 ^ t := by
      rw [← hmag, ← magUnits, ← natAbs_units]
      obtain ⟨z, hz⟩ := hwhole
      rw [hz]
      push_cast
      rw [Int.mul_ediv_cancel_left _ (by norm_num), Int.natAbs_mul, mul_comm]
      rfl
    rw [hself]
    exact representable_mul_pow hk ht
  · have hbound : magUnits a < 2 ^ 23 * 2 ^ 149 := by
      calc magUnits a = k * 2 ^ t := hmag
        _ < 2 ^ 24 * 2 ^ t := Nat.mul_lt_mul_of_pos_right hk (by positivity)
        _ ≤ 2 ^ 24 * 2 ^ 148 := Nat.mul_le_mul_left _ (Nat.pow_le_pow_right (by norm_num) (by omega))
        _ = 2 ^ 23 * 2 ^ 149 := by ring
    have hunits := natAbs_units a
    exact representable_mul_pow (by omega) (by norm_num)

theorem floor_ratValue (a : F32) : ⌊ratValue a⌋ = units a / 2 ^ 149 := by
  rw [ratValue]
  exact_mod_cast Rat.floor_intCast_div_natCast (units a) (2 ^ 149)

/-- Settles O60. -/
theorem floorIsExact : Obligations.FloorIsExact := by
  intro a ha
  rw [floor_ratValue]
  cases hz : isZero a with
  | true =>
    have hfloor : ffloor a = a := by simp [ffloor, not_isNaN_of_isFinite ha, hz]
    rw [hfloor, (ratValue_eq_zero_iff a).2 hz, (units_eq_zero_iff a).2 hz]
    exact ⟨ha, by simp⟩
  | false =>
    have hfloor : ffloor a = roundUnits (decide (units a / 2 ^ 149 < 0))
        ((units a / 2 ^ 149).natAbs * 2 ^ 149) 1 := by
      simp [ffloor, not_isNaN_of_isFinite ha, isInf_of_isFinite ha, hz]
    obtain ⟨hfin, hunits⟩ := roundUnits_of_representable (representable_floor ha)
      (decide (units a / 2 ^ 149 < 0))
    rw [hfloor]
    refine ⟨hfin, ?_⟩
    rw [ratValue, hunits, Nat.cast_mul, ← mul_assoc, signUnit_mul_natAbs]
    push_cast
    exact mul_div_cancel_right₀ _ (by norm_num)

end Sys2Proof.Machine

/-!
Proofs of the statements of 40_waveform.md section 1: what the primitives do with a NaN and a zero, the
bounds of the trigonometric units, and the shapes.
-/

namespace Sys2Proof.Machine

/-! ### NaNs and zeros (00_scope.md R7, R15) -/

@[simp] theorem isNaN_qNaN : isNaN qNaN = true := by decide

theorem fadd_of_isNaN_right (a : F32) {b : F32} (h : isNaN b = true) : fadd a b = qNaN := by
  simp [fadd, h]

theorem fmul_of_isNaN_right (a : F32) {b : F32} (h : isNaN b = true) : fmul a b = qNaN := by
  simp [fmul, h]

theorem fmul_of_isNaN_left {a : F32} (b : F32) (h : isNaN a = true) : fmul a b = qNaN := by
  simp [fmul, h]

theorem fge_of_isNaN_left {a : F32} (b : F32) (h : isNaN a = true) : fge a b = false := by
  simp [fge, h]

theorem not_isNaN_of_isInf {a : F32} (h : isInf a = true) : isNaN a = false := by
  simp only [isInf, beq_iff_eq] at h
  simp [isNaN, h]

/-- A pattern is finite, an infinity or a NaN. -/
theorem isFinite_or_isInf_or_isNaN (a : F32) : isFinite a = true ∨ isInf a = true ∨ isNaN a = true := by
  simp only [isFinite, isInf, isNaN, decide_eq_true_eq, beq_iff_eq]
  omega

/-- An infinity times a zero. -/
theorem fmul_isInf_isZero {a b : F32} (ha : isInf a = true) (hb : isZero b = true) :
    fmul a b = qNaN := by
  simp [fmul, not_isNaN_of_isInf ha, not_isNaN_of_isFinite (isFinite_of_isZero hb), ha, hb]

/-- A finite value times a zero is a zero, its sign that of the product. -/
theorem fmul_isFinite_isZero {a b : F32} (ha : isFinite a = true) (hb : isZero b = true) :
    fmul a b = packF32 (signOf a != signOf b) 0 := by
  have hmag : magUnits b = 0 := by
    rw [isZero, beq_iff_eq] at hb
    rw [magUnits, hb]
    rfl
  rw [fmul_of_isFinite ha (isFinite_of_isZero hb), hmag, mul_zero, roundUnits, roundMag_zero]

/-- A pattern is its sign and its magnitude bits. -/
theorem packF32_signOf_magBits (a : F32) : packF32 (signOf a) (magBits a) = a := by
  have := a.isLt
  have hlt : magBits a < 2 ^ 31 := Nat.mod_lt _ (by norm_num)
  apply BitVec.eq_of_toNat_eq
  rw [packF32_toNat _ _ hlt, signOf, BitVec.msb_eq_decide, magBits]
  split_ifs with h <;> simp at h <;> omega

/-- A finite value rounds to its own pattern. -/
theorem roundUnits_magUnits {a : F32} (ha : isFinite a = true) {n d : Nat} (hd : 0 < d)
    (h : n = magUnits a * d) : roundUnits (signOf a) n d = a := by
  obtain ⟨-, hunits⟩ := roundMag_of_representable (representable_magUnits ha)
  have hmag : roundMag n d = magBits a := by
    rw [roundMag_congr (n' := magUnits a) hd one_pos (by omega)]
    exact unitsOfMag_strictMono.injective hunits
  rw [roundUnits, hmag, packF32_signOf_magBits]

theorem decide_units_neg {a : F32} (hz : isZero a = false) : decide (units a < 0) = signOf a := by
  have hpos := magUnits_pos_of_not_isZero hz
  rw [units]
  cases signOf a <;> simp [hpos]

/-- A zero is `+0.0` or `-0.0`. -/
theorem eq_zero_of_isZero {a : F32} (h : isZero a = true) : a = posZero ∨ a = negZero := by
  rw [isZero, beq_iff_eq] at h
  rw [← packF32_signOf_magBits a, h]
  cases signOf a
  · exact .inl rfl
  · exact .inr rfl

/-- Adding a zero to a value that is neither a NaN nor `-0.0`. -/
theorem fadd_isZero {a z : F32} (hz : isZero z = true) (ha : isNaN a = false) (hne : a ≠ negZero) :
    fadd a z = a := by
  have hzfin := isFinite_of_isZero hz
  rcases isFinite_or_isInf_or_isNaN a with hfin | hinf | hnan
  · rw [fadd_of_isFinite hfin hzfin, (units_eq_zero_iff z).2 hz, add_zero]
    cases h : isZero a with
    | true =>
      obtain rfl | rfl := eq_zero_of_isZero h
      · rfl
      · exact absurd rfl hne
    | false =>
      rw [if_neg (by rw [units_eq_zero_iff, h]; simp), decide_units_neg h, natAbs_units]
      exact roundUnits_magUnits hfin one_pos (by ring)
  · simp [fadd, ha, not_isNaN_of_isFinite hzfin, hinf, isInf_of_isFinite hzfin]
  · rw [hnan] at ha
    cases ha

/-- The sum of two zeros is a zero. -/
theorem isZero_fadd {a b : F32} (ha : isZero a = true) (hb : isZero b = true) :
    isZero (fadd a b) = true := by
  rw [fadd_of_isFinite (isFinite_of_isZero ha) (isFinite_of_isZero hb), (units_eq_zero_iff a).2 ha,
    (units_eq_zero_iff b).2 hb, if_pos (by simp)]
  exact isZero_packF32_zero _

theorem fOne_fmul {a : F32} (ha : isFinite a = true) : fmul fOne a = a := by
  have hone : magUnits fOne = 2 ^ 149 := by decide
  rw [fmul_of_isFinite isFinite_fOne ha, hone, show signOf fOne = false by decide, Bool.false_bne]
  exact roundUnits_magUnits ha (by positivity) (by ring)

/-- Adding to `+0.0` keeps a finite value, but for the sign of a zero. -/
theorem posZero_fadd {a : F32} (ha : isFinite a = true) :
    isFinite (fadd posZero a) = true ∧ ratValue (fadd posZero a) = ratValue a := by
  cases h : isZero a with
  | true =>
    have hzero := isZero_fadd (a := posZero) (by decide) h
    exact ⟨isFinite_of_isZero hzero, by
      rw [(ratValue_eq_zero_iff _).2 hzero, (ratValue_eq_zero_iff _).2 h]⟩
  | false =>
    have hunits : units posZero = 0 := by decide
    have hsum : fadd posZero a = a := by
      rw [fadd_of_isFinite isFinite_posZero ha, hunits, zero_add,
        if_neg (by rw [units_eq_zero_iff, h]; simp), decide_units_neg h, natAbs_units]
      exact roundUnits_magUnits ha one_pos (by ring)
    rw [hsum]
    exact ⟨ha, rfl⟩

/-! ### The trigonometric units (00_scope.md R9) -/

/-- SIN of a finite value is in `[-1.0, 1.0]`. -/
theorem sin_between {x : F32} (hx : isFinite x = true) :
    Between fNegOne (Config.sinUnit.apply x) fOne := by
  obtain ⟨hlow, hhigh⟩ := Config.sinUnit.bounded x hx
  simp only [fge, Bool.and_eq_true, decide_eq_true_eq] at hlow hhigh
  exact ⟨hlow.2, hhigh.2⟩

theorem isFinite_sin {x : F32} (hx : isFinite x = true) : isFinite (Config.sinUnit.apply x) = true :=
  (sin_between hx).finite isFinite_fNegOne isFinite_fOne

/-- SIN of a zero is that zero. -/
theorem sin_of_isZero {x : F32} (hx : isZero x = true) : Config.sinUnit.apply x = x := by
  obtain ⟨hpos, hneg⟩ := Config.sinUnit.zero
  obtain rfl | rfl := eq_zero_of_isZero hx
  · exact hpos
  · exact hneg

/-! ### Sine (40_waveform.md R88) -/

theorem sineShape_of_not_isFinite (p : Params) {theta : F32} (h : isFinite theta = false) :
    sineShape p theta = qNaN := by
  rw [sineShape, Config.sinUnit.nonFinite theta h, fmul_of_isNaN_right _ isNaN_qNaN,
    fadd_of_isNaN_right _ isNaN_qNaN]

/-- Settles O27: the formula by cases of the product; at amplitude 1.0 and offset +0.0 it is SIN itself. -/
theorem unitSineIsWithinTolerance : Obligations.UnitSineIsWithinTolerance := by
  intro p rng t dt pt theta i hshape hpt htheta
  have hformula : evalShape p rng t dt i = sineShape p theta := by
    simp only [evalShape, hshape, hpt, htheta]
    rfl
  rw [hformula]
  refine ⟨rfl, fun h => sineShape_of_not_isFinite p h, ?atZero, ?infinite, ?unit⟩
  case atZero =>
    rintro rfl hamp hoff hne
    have hzero : isZero (fmul p.amplitude posZero) = true := by
      rw [fmul_isFinite_isZero hamp (by decide)]
      exact isZero_packF32_zero _
    rw [sineShape, sin_of_isZero (by decide)]
    exact fadd_isZero hzero hoff hne
  case infinite =>
    rintro rfl hamp
    rw [sineShape, sin_of_isZero (by decide), fmul_isInf_isZero hamp (by decide),
      fadd_of_isNaN_right _ isNaN_qNaN]
    rfl
  case unit =>
    intro hamp hoff hfin
    have hsin := isFinite_sin hfin
    have hvalue : sineShape p theta = fadd posZero (Config.sinUnit.apply theta) := by
      rw [sineShape, hamp, hoff]
      exact congrArg (fadd posZero) (fOne_fmul hsin)
    obtain ⟨hfinite, hrat⟩ := posZero_fadd hsin
    rw [hvalue, hrat]
    exact ⟨hfinite, Config.sinUnit.accurate theta hfin⟩

/-! ### Square (40_waveform.md R89) -/

theorem squareShape_of_isNaN (p : Params) {theta : F32}
    (h : isNaN (fmul p.amplitude (Config.sinUnit.apply theta)) = true) :
    squareShape p theta = fadd p.offset fNegOne := by
  rw [squareShape, fge_of_isNaN_left _ h]
  rfl

/-- Settles O29: each of the three makes the product a NaN. -/
theorem squareOfANanIsOffsetMinusOne : Obligations.SquareOfANanIsOffsetMinusOne := by
  intro p rng t dt pt theta i hshape hpt htheta hcase
  have hformula : evalShape p rng t dt i = squareShape p theta := by
    simp only [evalShape, hshape, hpt, htheta]
    rfl
  have hproduct : fmul p.amplitude (Config.sinUnit.apply theta) = qNaN := by
    rcases hcase with hamp | hfin | ⟨hamp, hsin⟩
    · exact fmul_of_isNaN_left _ hamp
    · rw [Config.sinUnit.nonFinite theta hfin, fmul_of_isNaN_right _ isNaN_qNaN]
    · exact fmul_isInf_isZero hamp hsin
  rw [hformula]
  exact squareShape_of_isNaN p (by rw [hproduct, isNaN_qNaN])

/-- A value that is no NaN is at least `+0.0` when it is a zero or has the sign `+`. -/
theorem fge_posZero_iff {a : F32} (h : isNaN a = false) :
    fge a posZero = true ↔ isZero a = true ∨ signOf a = false := by
  have hkey : fge a posZero = true ↔ 0 ≤ orderKey a := by
    rw [fge, h, show isNaN posZero = false by decide, show orderKey posZero = 0 by decide]
    simp
  rw [hkey, isZero_iff_orderKey, orderKey]
  cases signOf a <;> simp

/-- A product that is no NaN has the exclusive or of the signs. -/
theorem signOf_fmul {a b : F32} (h : isNaN (fmul a b) = false) :
    signOf (fmul a b) = (signOf a != signOf b) := by
  unfold fmul at h ⊢
  dsimp only at h ⊢
  split_ifs at h ⊢
  · simp at h
  · simp at h
  · exact signOf_packF32 _ _ (by norm_num)
  · exact signOf_roundUnits _ _ _

/-- The product of a zero and anything is a zero or a NaN. -/
theorem isZero_fmul_of_isZero_right {a b : F32} (hb : isZero b = true) (h : isNaN (fmul a b) = false) :
    isZero (fmul a b) = true := by
  rcases isFinite_or_isInf_or_isNaN a with hfin | hinf | hnan
  · rw [fmul_isFinite_isZero hfin hb]
    exact isZero_packF32_zero _
  · rw [fmul_isInf_isZero hinf hb] at h
    simp at h
  · rw [fmul_of_isNaN_left b hnan] at h
    simp at h

/-- Settles O28: a product that is no zero has the sign of the amplitude exactly when SIN has the sign
`+`, which is that of the exact sine. -/
theorem squareFollowsTheExactSine : Obligations.SquareFollowsTheExactSine := by
  intro p rng t dt pt theta i hshape hpt htheta hfin hnan
  have hformula : evalShape p rng t dt i = squareShape p theta := by
    simp only [evalShape, hshape, hpt, htheta]
    rfl
  rw [hformula, squareShape]
  refine ⟨fun hz => ?zero, fun hz => ?nonzero⟩
  case zero =>
    rw [if_pos ((fge_posZero_iff hnan).2 (.inl hz))]
    rfl
  case nonzero =>
    have hsin : isZero (Config.sinUnit.apply theta) = false := by
      by_contra h
      rw [isZero_fmul_of_isZero_right (by simpa using h) hnan] at hz
      cases hz
    have hsign : 0 ≤ Real.sin (ratValue theta) ↔ signOf (Config.sinUnit.apply theta) = false := by
      rw [← Config.sinUnit.sign theta hfin,
        fge_posZero_iff (not_isNaN_of_isFinite (isFinite_sin hfin)), hsin]
      simp
    have hproduct : fge (fmul p.amplitude (Config.sinUnit.apply theta)) posZero = true ↔
        (signOf p.amplitude = false ↔ 0 ≤ Real.sin (ratValue theta)) := by
      rw [fge_posZero_iff hnan, hz, signOf_fmul hnan, hsign]
      cases signOf p.amplitude <;> cases signOf (Config.sinUnit.apply theta) <;> simp
    refine ⟨fun h => ?_, fun h => ?_⟩
    · rw [if_pos (hproduct.2 h)]
      rfl
    · rw [if_neg fun hge => h (hproduct.1 hge)]
      rfl

/-! ### Triangle (40_waveform.md R90) -/

/-- A pattern of small value is finite: infinities and NaNs count as `2^128` and more units of 1. -/
theorem isFinite_of_abs_ratValue_le {a : F32} (h : |ratValue a| ≤ 2) : isFinite a = true := by
  have hmag : magUnits a ≤ 2 ^ 150 := by
    rw [ratValue, abs_div, abs_of_pos (show (0 : ℚ) < 2 ^ 149 by positivity),
      div_le_iff₀ (by positivity), ← Int.cast_abs, Int.abs_eq_natAbs, natAbs_units] at h
    have h' : ((magUnits a : ℕ) : ℚ) ≤ ((2 ^ 150 : ℕ) : ℚ) := by
      push_cast at h ⊢
      linarith
    exact_mod_cast h'
  have hinf : 2 ^ 150 < unitsOfMag 0x7F800000 := by decide
  rw [isFinite, decide_eq_true_eq, ← unitsOfMag_strictMono.lt_iff_lt]
  exact hmag.trans_lt hinf

/-- ASIN of SIN of a finite value is finite: it is near an arcsine. -/
theorem isFinite_asin_sin {theta : F32} (h : isFinite theta = true) :
    isFinite (Config.asinUnit.apply (Config.sinUnit.apply theta)) = true := by
  obtain ⟨hlow, hhigh⟩ := Config.sinUnit.bounded theta h
  have hnear := abs_le.1 (Config.asinUnit.accurate _ hlow hhigh)
  set y := Config.asinUnit.apply (Config.sinUnit.apply theta)
  have hpi := Real.pi_lt_d2
  have hle := Real.arcsin_le_pi_div_two (ratValue (Config.sinUnit.apply theta) : ℝ)
  have hge := Real.neg_pi_div_two_le_arcsin (ratValue (Config.sinUnit.apply theta) : ℝ)
  have habs : |((ratValue y : ℚ) : ℝ)| ≤ 2 := by
    rw [abs_le]
    constructor <;> norm_num at * <;> linarith
  exact isFinite_of_abs_ratValue_le (by exact_mod_cast habs)

/-- ASIN of a zero is that zero. -/
theorem asin_of_isZero {x : F32} (hx : isZero x = true) : Config.asinUnit.apply x = x := by
  obtain ⟨hpos, hneg, -⟩ := Config.asinUnit.exactAt
  obtain rfl | rfl := eq_zero_of_isZero hx
  · exact hpos
  · exact hneg

/-- A quotient by PI is no larger than its dividend. -/
theorem isFinite_fdiv_fPi {a : F32} (ha : isFinite a = true) : isFinite (fdiv a fPi) = true := by
  have hpi : 2 ^ 149 ≤ magUnits fPi := by decide
  obtain ⟨hfin, -⟩ := roundMag_of_representable (representable_magUnits ha)
  rw [fdiv_of_isFinite ha (by decide) (by decide), isFinite_roundUnits_iff]
  exact (roundMag_mono (by omega) one_pos (by nlinarith)).trans_lt hfin

/-- The quotient by PI of a value that is not finite is not finite. -/
theorem fdiv_fPi_of_not_isFinite {a : F32} (ha : isFinite a = false) :
    isInf (fdiv a fPi) = true ∨ isNaN (fdiv a fPi) = true := by
  have hnan : isNaN fPi = false := by decide
  have hinf : isInf fPi = false := by decide
  rcases isFinite_or_isInf_or_isNaN a with hfin | hainf | hanan
  · rw [hfin] at ha
    cases ha
  · left
    simp only [fdiv, not_isNaN_of_isInf hainf, hnan, hainf, hinf, Bool.or_self, Bool.false_eq_true,
      if_false, if_true]
    rw [isInf, magBits_packF32 _ _ (by norm_num), beq_self_eq_true]
  · right
    simp [fdiv, hanan]

theorem not_isNaN_roundUnits (s : Bool) (n d : Nat) : isNaN (roundUnits s n d) = false := by
  have hle : roundMag n d ≤ 0x7F800000 := min_le_right _ _
  rw [isNaN, magBits_roundUnits, decide_eq_false_iff_not]
  exact hle.not_gt

/-- A product of finite values is no NaN. -/
theorem not_isNaN_fmul {a b : F32} (ha : isFinite a = true) (hb : isFinite b = true) :
    isNaN (fmul a b) = false := by
  rw [fmul_of_isFinite ha hb]
  exact not_isNaN_roundUnits _ _ _

/-- The sum of a finite value and a value that is no NaN is no NaN. -/
theorem not_isNaN_fadd {a b : F32} (ha : isFinite a = true) (hb : isNaN b = false) :
    isNaN (fadd a b) = false := by
  rcases isFinite_or_isInf_or_isNaN b with hfin | hinf | hnan
  · rw [fadd_of_isFinite ha hfin]
    split_ifs
    · exact not_isNaN_of_isFinite (isFinite_of_isZero (isZero_packF32_zero _))
    · exact not_isNaN_roundUnits _ _ _
  · simp [fadd, not_isNaN_of_isFinite ha, isInf_of_isFinite ha, hinf, hb]
  · rw [hb] at hnan
    cases hnan

theorem triangleShape_of_not_isFinite (p : Params) {theta : F32} (h : isFinite theta = false) :
    triangleShape p theta = qNaN := by
  rw [triangleShape, Config.sinUnit.nonFinite theta h,
    Config.asinUnit.outside qNaN (.inl isNaN_qNaN), fmul_of_isNaN_right _ isNaN_qNaN,
    fadd_of_isNaN_right _ isNaN_qNaN]

/-- At a zero theta the triangle wave itself is that zero. -/
theorem triangleShape_of_isZero (p : Params) {theta : F32} (h : isZero theta = true) :
    triangleShape p theta = fadd p.offset (fmul (fdiv (fmul fTwo p.amplitude) fPi) theta) := by
  rw [triangleShape, sin_of_isZero h, asin_of_isZero h]

/-- Settles O30: the scaled amplitude is finite exactly when the doubled amplitude is, and a zero theta
makes the product a zero or a NaN accordingly. -/
theorem triangleIsTheOffsetAtZero : Obligations.TriangleIsTheOffsetAtZero := by
  intro p rng t dt pt theta i hshape hpt htheta
  have hformula : evalShape p rng t dt i = triangleShape p theta := by
    simp only [evalShape, hshape, hpt, htheta]
    rfl
  rw [hformula]
  refine ⟨rfl, fun hz hamp => ?atZero, fun hz hamp => ?infinite, fun hfin => ⟨?_, fun hamp hoff => ?value⟩,
    triangleShape_of_not_isFinite p⟩
  case atZero =>
    have hproduct : isZero (fmul (fdiv (fmul fTwo p.amplitude) fPi) theta) = true := by
      have hscaled : isFinite (fdiv (fmul fTwo p.amplitude) fPi) = true := isFinite_fdiv_fPi hamp
      rw [fmul_isFinite_isZero hscaled hz]
      exact isZero_packF32_zero _
    rw [triangleShape_of_isZero p hz]
    refine ⟨fadd_isZero hproduct, ?_⟩
    intro hoff
    exact isZero_fadd (by rw [hoff]; decide) hproduct
  case infinite =>
    have hproduct : fmul (fdiv (fmul fTwo p.amplitude) fPi) theta = qNaN := by
      rcases fdiv_fPi_of_not_isFinite hamp with hinf | hnan
      · exact fmul_isInf_isZero hinf hz
      · exact fmul_of_isNaN_left theta hnan
    rw [triangleShape_of_isZero p hz, hproduct, fadd_of_isNaN_right _ isNaN_qNaN]
    rfl
  case value =>
    exact not_isNaN_fadd hoff (not_isNaN_fmul (isFinite_fdiv_fPi hamp) (isFinite_asin_sin hfin))
  exact not_isNaN_of_isFinite (isFinite_asin_sin hfin)

/-! ### Sawtooth and Bounce (40_waveform.md R91, R92)

A row of the vectors leaves the other parameters and the random source open; the two values are functions of
the row alone, so that each row is one evaluation. -/

/-- The Sawtooth value as a function of the parameters it reads. -/
def sawtoothValue (amp off theta : F32) : F32 :=
  fsub (fadd off (fdiv (fmul amp (ffmod theta fTwoPi)) fPi)) fOne

theorem evalShape_sawtooth {p : Params} (h : p.shape = .sawtooth) (rng : Nat) (t dt : F32) (i : Nat) :
    evalShape p rng t dt i = sawtoothValue p.amplitude p.offset (thetaOf p (phaseT t dt i)) := by
  simp only [evalShape, h]
  rfl

/-- The Bounce value as a function of the parameters it reads. -/
def bounceValue (amp off x : F32) : F32 := fadd off (fmul (triWave x) (fsub amp off))

theorem evalShape_bounce {p : Params} (h : p.shape = .bounce) (rng : Nat) (t dt : F32) (i : Nat) :
    evalShape p rng t dt i = bounceValue p.amplitude p.offset (fmul (phaseT t dt i) p.frequency) := by
  simp only [evalShape, h]
  rfl

/-- A row of L2-5: amplitude, frequency, phase, offset, t, dt, i, theta, result. -/
abbrev SawtoothRow := F32 × F32 × F32 × F32 × F32 × F32 × Nat × F32 × F32

/-- The row's theta and value are those of the formulas. -/
def SawtoothRow.holds : SawtoothRow → Bool
  | (amp, freq, phase, off, t, dt, i, theta, result) =>
    fadd (fmul (fmul fTwoPi freq) (phaseT t dt i)) phase == theta && sawtoothValue amp off theta == result

theorem evalShape_of_sawtoothRow {p : Params} (h : p.shape = .sawtooth) (rng : Nat)
    {amp freq phase off t dt theta result : F32} {i : Nat}
    (hrow : SawtoothRow.holds (amp, freq, phase, off, t, dt, i, theta, result) = true) :
    fadd (fmul (fmul fTwoPi freq) (phaseT t dt i)) phase = theta ∧
      evalShape { p with amplitude := amp, frequency := freq, phase := phase, offset := off }
        rng t dt i = result := by
  simp only [SawtoothRow.holds, Bool.and_eq_true, beq_iff_eq] at hrow
  obtain ⟨htheta, hresult⟩ := hrow
  refine ⟨htheta, ?_⟩
  rw [evalShape_sawtooth (by exact h), ← hresult, ← htheta]
  rfl

/-- A row of L2-6: amplitude, frequency, offset, t, TRI input, result. -/
abbrev BounceRow := F32 × F32 × F32 × F32 × F32 × F32

/-- The row's TRI input and value are those of the formulas, its time at index 0 being `t` itself. -/
def BounceRow.holds : BounceRow → Bool
  | (amp, freq, off, t, x, result) =>
    !isNaN t && t != negZero && fmul t freq == x && bounceValue amp off x == result

/-- At index 0 the time is `t`: the step enters as a zero. -/
theorem phaseT_zero {t dt : F32} (ht : isNaN t = false) (hne : t ≠ negZero)
    (hdt : isFinite dt = true) : phaseT t dt 0 = t := by
  have hmag : magUnits (i2f 0) = 0 := by decide
  refine fadd_isZero ?_ ht hne
  rw [fmul_of_isFinite (by decide) hdt, hmag, zero_mul, roundUnits, roundMag_zero]
  exact isZero_packF32_zero _

theorem evalShape_of_bounceRow {p : Params} (h : p.shape = .bounce) (rng : Nat)
    {dt amp freq off t x result : F32} (hdt : isFinite dt = true)
    (hrow : BounceRow.holds (amp, freq, off, t, x, result) = true) :
    fmul (phaseT t dt 0) freq = x ∧
      evalShape { p with amplitude := amp, frequency := freq, offset := off } rng t dt 0 = result := by
  simp only [BounceRow.holds, Bool.and_eq_true, Bool.not_eq_true', bne_iff_ne, beq_iff_eq] at hrow
  obtain ⟨⟨⟨ht, hne⟩, hx⟩, hresult⟩ := hrow
  have hphase := phaseT_zero ht hne hdt
  rw [evalShape_bounce (by exact h), hphase, hx]
  exact ⟨rfl, hresult⟩

/-- Settles O31. -/
theorem sawtoothAndBounceVectors : Obligations.SawtoothAndBounceVectors := by
  refine ⟨?sawtooth, ?bounce, ?sawtoothRows, ?bounceRows⟩
  case sawtooth =>
    rintro p rng t dt pt theta i hshape rfl rfl
    exact evalShape_sawtooth hshape rng t dt i
  case bounce =>
    rintro p rng t dt x f i hshape rfl rfl
    exact evalShape_bounce hshape rng t dt i
  case sawtoothRows =>
    intro p rng hshape r hr
    have hrow : SawtoothRow.holds r = true := List.all_eq_true.1 (by decide) r hr
    exact evalShape_of_sawtoothRow hshape rng hrow
  case bounceRows =>
    intro p rng dt hshape hdt r hr
    have hrow : BounceRow.holds r = true := List.all_eq_true.1 (by decide) r hr
    exact evalShape_of_bounceRow hshape rng hdt hrow

end Sys2Proof.Machine

/-!
Proofs of the statements about reserved words, BADCMD and TRESET: a word that spells no command is one
that the decoder refuses, and no other write raises BADCMD.
-/

namespace Sys2Proof.Machine

/-! ### Reserved words (30_encoding.md R76, R77) -/

/-- A word that spells no command. -/
def Reserved (w : Word) : Prop := ∀ r ∈ opRows, matchesRow w r = false

theorem reserved_iff (w : Word) : Reserved w ↔ ∃ e, decode w = .error e := by
  constructor
  · intro h
    cases hd : decode w with
    | ok i => exact absurd (matchesRow_of_decode hd) (by simp [h _ (opRow_mem_opRows i)])
    | error e => exact ⟨e, rfl⟩
  · rintro ⟨e, he⟩ r hr
    obtain ⟨i, rfl⟩ := (mem_opRows_iff r).1 hr
    by_contra hmatch
    obtain ⟨j, hj⟩ := decode_of_matchesRow (Bool.of_not_eq_false hmatch)
    exact absurd (hj.symm.trans he) (by simp)

theorem runCommand_of_reserved {w : Word} (h : Reserved w) (s : State) :
    runCommand w s = .next (s.setBadcmd true) := by
  obtain ⟨e, he⟩ := (reserved_iff w).1 h
  exact runCommand_error s he

theorem step_of_reserved {s : State} {w : Word} {rest : List HostEvent}
    (hpending : s.pending = .write 0x000008#24 (.word w) :: rest) (h : Reserved w) :
    step s = .next { s with pending := rest, reply := none, badcmd := true } := by
  rw [step_write hpending, busWrite_cmd, runCommand_of_reserved h]
  rfl

theorem opField_eq_shiftRight (w : Word) : opField w = (w >>> 24).toNat := by
  have := w.isLt
  rw [opField, BitVec.extractLsb'_toNat, BitVec.toNat_ushiftRight, Nat.shiftRight_eq_div_pow]
  omega

theorem opField_of_matchesRow {w : Word} {r : OpRow} (hr : r ∈ opRows) (h : matchesRow w r = true) :
    opField w = opField r.value := by
  obtain ⟨i, rfl⟩ := (mem_opRows_iff r).1 hr
  exact ((matchesRow_opRow_iff w i).1 h).1.trans (opRow_value i).1.symm

/-- The opcodes of the table, by the ranges they fill. -/
theorem opRows_opcode_ranges : ∀ r ∈ opRows, (0x01 ≤ opField r.value ∧ opField r.value ≤ 0x05) ∨
    (0x10 ≤ opField r.value ∧ opField r.value ≤ 0x13) ∨
    (0x20 ≤ opField r.value ∧ opField r.value ≤ 0x21) := by decide

theorem opRows_value_low_bits : ∀ r ∈ opRows, r.value &&& 0x00FFFFFF#32 = 0#32 := by decide

theorem reserved_of_opcode {w : Word} (h : opField w = 0x00 ∨ (0x06 ≤ opField w ∧ opField w ≤ 0x0F) ∨
    (0x14 ≤ opField w ∧ opField w ≤ 0x1F) ∨ (0x22 ≤ opField w ∧ opField w ≤ 0xFF)) : Reserved w := by
  intro r hr
  by_contra hmatch
  have hop := opField_of_matchesRow hr (Bool.of_not_eq_false hmatch)
  have hranges := opRows_opcode_ranges r hr
  omega

/-- The opcode admits one row only, and that row wants the bit zero. -/
theorem reserved_of_mustBeZero {w : Word} {r : OpRow} (hr : r ∈ opRows)
    (hop : opField w = opField r.value) (hbits : w &&& r.mask &&& 0x00FFFFFF#32 ≠ 0#32) :
    Reserved w := by
  intro r' hr'
  by_contra hmatch
  have hmatch' : matchesRow w r' = true := Bool.of_not_eq_false hmatch
  have hsame : r = r' := opRows_opcode_injective r hr r' hr'
    (BitVec.eq_of_toNat_eq (hop.symm.trans (opField_of_matchesRow hr' hmatch')))
  subst hsame
  have hvalue : w &&& r.mask = r.value := by simpa [matchesRow] using hmatch'
  exact hbits (by rw [hvalue, opRows_value_low_bits r hr])

/-- Settles O6: the decoder refuses the word, which has either no row's opcode or a bit that its row
wants zero. -/
theorem reservedWordSetsBadcmdOnly : Obligations.ReservedWordSetsBadcmdOnly := by
  refine ⟨fun s w rest hpending h => step_of_reserved hpending h, ?opcode, ?zeroBits⟩
  case opcode =>
    rintro w op rfl hop
    rw [← opField_eq_shiftRight] at hop
    exact reserved_of_opcode hop
  case zeroBits =>
    intro w r hr hshift hbits
    have hop : opField w = opField r.value := by
      rw [opField_eq_shiftRight, opField_eq_shiftRight, hshift]
    exact reserved_of_mustBeZero hr hop hbits

/-! ### Who raises BADCMD (60_exceptions.md R136) -/

/-- The outcome is a next state with BADCMD set only where it was set before. -/
def NeverRaises (s : State) (o : Host.Outcome State Fault Refusal) : Prop :=
  ∃ t, o = .next t ∧ (t.badcmd = true → s.badcmd = true)

theorem NeverRaises.next {s t : State} (h : t.badcmd = true → s.badcmd = true) :
    NeverRaises s (.next t) :=
  ⟨t, rfl, h⟩

theorem exec_neverRaises (i : Instr) (s : State) : NeverRaises s (exec i s) := by
  obtain ⟨t, ht, hbad, -⟩ := flagsAreReadByNoCommand.2 i s
  exact ⟨t, ht, fun h => hbad ▸ h⟩

theorem runCommand_neverRaises {w : Word} (h : ¬ Reserved w) (s : State) :
    NeverRaises s (runCommand w s) := by
  cases hd : decode w with
  | ok i => rw [runCommand_ok s hd]; exact exec_neverRaises i s
  | error e => exact absurd ((reserved_iff w).2 ⟨e, hd⟩) h

theorem writeStatus_badcmd {s : State} {w : Word} (h : (writeStatus s w).badcmd = true) :
    s.badcmd = true := by
  unfold writeStatus at h
  split_ifs at h
  · cases h
  · exact h

theorem writeGlobal_neverRaises {r : GlobalReg} {w : Word} (h : r = .cmd → ¬ Reserved w) (s : State) :
    NeverRaises s (writeGlobal r w s) := by
  cases r with
  | cmd => exact runCommand_neverRaises (h rfl) s
  | status => exact .next writeStatus_badcmd
  | config | argT | argDt | argValue | argRgbb | result | ledBrightness => exact .next id

theorem globalRegAt_eq_cmd {n : Nat} (h : globalRegAt n = some .cmd) : n = 0x008 := by
  unfold globalRegAt at h
  split at h <;> simp_all

theorem channelTarget_ne_globalReg (b : Build) (n : Nat) (r : GlobalReg) :
    channelTarget b n ≠ .globalReg r := by
  unfold channelTarget
  cases channelRegAt (n % 0x100) with
  | none => simp
  | some q => dsimp only; split_ifs <;> simp

theorem elementAt_ne_globalReg {b : Build} {mk : Nat → Nat → Target} {r : GlobalReg}
    (hmk : ∀ j i, mk j i ≠ .globalReg r) (n : Nat) : elementAt b mk n ≠ .globalReg r := by
  unfold elementAt
  split_ifs
  · exact hmk _ _
  · simp

/-- `G.CMD` stands at one address only (20_memory.md R56). -/
theorem eq_cmdAddr_of_targetOf {b : Build} {a : Addr} (h : targetOf b a = .globalReg .cmd) :
    a = 0x000008#24 := by
  cases hregion : regionOf a <;> simp only [targetOf, hregion] at h
  case globals =>
    cases hreg : globalRegAt a.toNat with
    | none => simp [hreg] at h
    | some r =>
      obtain rfl : r = .cmd := by simpa [hreg] using h
      exact BitVec.eq_of_toNat_eq (globalRegAt_eq_cmd hreg)
  case channelRegs => exact absurd h (channelTarget_ne_globalReg _ _ _)
  case frame => split_ifs at h
  case raw | samples | mask => exact absurd h (elementAt_ne_globalReg (by simp) _)
  case unmapped => cases h

/-- Of the host's writes, only one of a reserved word to `G.CMD` raises BADCMD. -/
theorem busWrite_neverRaises {a : Addr} {v : PortData}
    (h : ∀ w, a = 0x000008#24 → v = .word w → ¬ Reserved w) (s : State) :
    NeverRaises s (busWrite a v s) := by
  cases v with
  | byte _ => exact .next id
  | half _ => exact .next id
  | word w =>
    unfold busWrite
    split_ifs
    · cases htarget : targetOf s.build a with
      | globalReg r =>
        refine writeGlobal_neverRaises ?_ s
        rintro rfl
        exact h w (eq_cmdAddr_of_targetOf htarget) rfl
      | channelReg | frame | raw | samples | mask | empty => exact .next id
    · exact .next id

/-- The next transaction is a write of a reserved word to `G.CMD`. -/
def WritesReserved (s : State) : Prop :=
  ∃ w rest, s.pending = .write 0x000008#24 (.word w) :: rest ∧ Reserved w

theorem step_neverRaises {s : State} (h : ¬ WritesReserved s) : NeverRaises s (step s) := by
  cases hp : s.pending with
  | nil => rw [step_idle s hp]; exact .next id
  | cons e rest =>
    cases e with
    | read a n => rw [step_read hp]; exact .next id
    | write a v =>
      have hword : ∀ w, a = 0x000008#24 → v = .word w → ¬ Reserved w := by
        rintro w rfl rfl hw
        exact h ⟨w, rest, hp, hw⟩
      rw [step_write hp]
      exact busWrite_neverRaises hword { s with pending := rest, reply := none }
    | reset => rw [resetPulseGivesTheResetState s rest hp]; exact .next (fun h => by cases h)

/-- Settles O7: a step that writes a reserved word sets BADCMD alone, and no other step raises it. -/
theorem badcmdIsSetByExactlyOneCause : Obligations.BadcmdIsSetByExactlyOneCause := by
  intro s hlow
  by_cases h : WritesReserved s
  · have ⟨w, rest, hpending, hw⟩ := h
    exact ⟨_, step_of_reserved hpending hw, iff_of_true rfl h, fun _ => rfl⟩
  · obtain ⟨t, ht, hraises⟩ := step_neverRaises h
    have hclear : t.badcmd ≠ true := fun hbad => by simp [hraises hbad] at hlow
    exact ⟨t, ht, iff_of_false hclear h, fun hbad => absurd hbad hclear⟩

/-! ### TRESET (41_engine.md R110) -/

/-- Settles O40: each round puts one channel back with its clock zeroed. -/
theorem tresetRewindsEveryClock : Obligations.TresetRewindsEveryClock := by
  intro s hinv
  exact congrArg Host.Outcome.next
    (forUpto_setChan (fun ch => ch.setTime posZero) s _ hinv.channels_length)

end Sys2Proof.Machine
